-- ==== Sys2Proof/Word.lean ====
section
/-! DEFINITION. The widths the hardware works with (00_scope.md rule R8). -/

namespace Sys2Proof

/-- A byte: one wire value, one data byte, one cell of the read buffer (R8). -/
abbrev Byte := BitVec 8

/-- A flash address: 24 bits, unsigned (R8, 20_memory.md R51). -/
abbrev Addr24 := BitVec 24

/-- A command word, or one register of the host window (30_encoding.md R72, 10_state.md R29). -/
abbrev Word := BitVec 32

end Sys2Proof
end

