-- ==== Sys2Proof/Machine/Constants.lean ====
section
/-! DEFINITION. The protocol constants of 00_scope.md R7 and the byte values of 30_encoding.md R80 to R90, each
under the name the spec gives it. All are unaudited literals of the source (U9). The meanings use them by name only;
Machine/Trace.lean writes the spec's numbers out a second time, for the statements to compare with. -/

namespace Sys2Proof.Machine

/-- `T_PULSE_HIGH`: CLK high time of one clock pulse, microseconds. -/
def tPulseHigh : Nat := 1
/-- `T_PULSE_LOW`: CLK low time after a clock pulse. -/
def tPulseLow : Nat := 1
/-- `T_SETTLE`: settle after the idle pattern. -/
def tSettle : Nat := 500
/-- `T_WAKE_LOW`: hold of the first clock-low of the handshake. -/
def tWakeLow : Nat := 1
/-- `T_WAKE_HIGH`: hold of the clock-high that follows it. -/
def tWakeHigh : Nat := 50
/-- `N_SYNC_MSEL`: first train, MSEL low-pulses. -/
def nSyncMsel : Nat := 165
/-- `N_SYNC_DIN`: second train, DIN low-pulses. -/
def nSyncDin : Nat := 105
/-- `N_SYNC_CLK`: third train, CLK low-pulses. -/
def nSyncClk : Nat := 90
/-- `HANDSHAKE_SYNC_PULSES`: fourth train (MSEL) and fifth train (CLK). -/
def handshakeSyncPulses : Nat := 25600
/-- `T_SYNC`: every hold of the five trains. -/
def tSync : Nat := 2
/-- `T_PRE_MODE`: settle before lowering MSEL and CLK. -/
def tPreMode : Nat := 8
/-- `T_STEP`: the 2 microsecond holds outside the trains. -/
def tStep : Nat := 2
/-- `T_FINAL`: each hold of the final MSEL high-then-low pulse. -/
def tFinal : Nat := 5
/-- `N_ALT_RESET`: clock toggle pulses of RESET from AltMode. -/
def nAltReset : Nat := 35
/-- `T_ICP_ENTRY`: wait after the mode byte when entering IcpMode. -/
def tIcpEntry : Nat := 800
/-- `N_ALT_A`: clock pulses with MSEL high, AltMode entry. -/
def nAltA : Nat := 6
/-- `N_ALT_B`: clock pulses after MSEL falls, AltMode entry. -/
def nAltB : Nat := 2
/-- `BLOCK_LEN`: bytes per READFLASH. -/
def blockLen : Nat := 16

/-- `MODE_RESET`: the number of the mode Reset. -/
def MODE_RESET : Byte := 0x01
/-- The number the spec gives the mode Uninitialized (D4). -/
def MODE_UNINITIALIZED : Byte := 0x00
/-- `MODE_ICP` (R86): the number of IcpMode and the byte sent to enter it. -/
def MODE_ICP : Byte := 0x96
/-- `MODE_ALT` (R86, D20): the number of AltMode and the byte sent to enter it. -/
def MODE_ALT : Byte := 0xA5
/-- `ICP_ADDRESS_7B0` (R80). -/
def ICP_ADDRESS_7B0 : Byte := 0x40
/-- `ICP_ADDRESS_15B8` (R81). -/
def ICP_ADDRESS_15B8 : Byte := 0x41
/-- `ICP_ADDRESS_23B16` (R82). -/
def ICP_ADDRESS_23B16 : Byte := 0x4C
/-- `ICP_READ` (R83). -/
def ICP_READ : Byte := 0x44
/-- `ICP_WRITE` (R84). -/
def ICP_WRITE : Byte := 0x42
/-- `ICP_READ_CUSTOM_BLOCK` (R85). -/
def ICP_READ_CUSTOM_BLOCK : Byte := 0x4A
/-- `OP_PROBE` (R87, D32). -/
def OP_PROBE : Byte := 0x43
/-- `OP_PING` (R88, D32). -/
def OP_PING : Byte := 0x49
/-- `OP_PRE` (R89, D32). -/
def OP_PRE : Byte := 0x46
/-- `CHECK_ECHO`: the value CHECK sends as data and compares with (R90). -/
def CHECK_ECHO : Byte := 0x69
/-- The literal data byte 0xFF (R90). -/
def FILL_FF : Byte := 0xFF
/-- The literal data byte 0xFE, second byte of the preamble (R90). -/
def PRE_FE : Byte := 0xFE

/-- The two bytes that name a mode a mode byte can enter (43_mode_switch.md R137). -/
def legalTarget (t : Byte) : Bool := t == MODE_ICP || t == MODE_ALT

end Sys2Proof.Machine
end

