-- ==== Sys2Proof/Syntax.lean ====
section
/-! DEFINITION. The instructions: one constructor per row of spec/opcode_table.json, and the two layers of
encodings they are read from (30_encoding.md). -/

namespace Sys2Proof

/-- One constructor per row of the opcode table. The first six are the host's command words (30_encoding.md
R72), with the operands each one uses; the other eleven are the wire values the engine emits (R80 to R89). -/
inductive Instr where
  /-- `HANDSHAKE`, OP 0x1 (42_entry_handshake.md R120). -/
  | handshake
  /-- `RESET`, OP 0x2 (43_mode_switch.md R130). -/
  | reset
  /-- `SWITCHMODE tgt`, OP 0x3 (43_mode_switch.md R135). -/
  | switchmode (tgt : Byte)
  /-- `CHECK`, OP 0x4 (44_probes.md R150). -/
  | check
  /-- `PING`, OP 0x5 (44_probes.md R151). -/
  | ping
  /-- `READFLASH addr, cb`, OP 0x6 (45_flash_read.md R160). -/
  | readflash (addr : Addr24) (cb : Bool)
  /-- Wire value 0x40: select address bits 0-7 (R80). -/
  | icpAddress7b0
  /-- Wire value 0x41: select address bits 8-15 (R81). -/
  | icpAddress15b8
  /-- Wire value 0x4C: select address bits 16-23 (R82). -/
  | icpAddress23b16
  /-- Wire value 0x44: read 16-byte block (R83). -/
  | icpRead
  /-- Wire value 0x42: defined, emitted by no operation (R84). -/
  | icpWrite
  /-- Wire value 0x4A: read 16-byte block, alternate region (R85). -/
  | icpReadCustomBlock
  /-- Wire value 0x96, sent in a mode frame (R86). -/
  | modeIcp
  /-- Wire value 0xA5, sent in a mode frame (R86). -/
  | modeAlt
  /-- Wire value 0x43 (R87). -/
  | opProbe
  /-- Wire value 0x49 (R88). -/
  | opPing
  /-- Wire value 0x46 (R89). -/
  | opPre
deriving DecidableEq, Repr

/-- What a decoder is given. The hardware has two layers that never mix (30_encoding.md R70): a 32-bit word
written to `CMD`, and an 8-bit value the sequencer puts on the wire. -/
inductive Code where
  | command (w : Word)
  | wire (b : Byte)
deriving DecidableEq, Repr

/-- The host commands among the instructions (30_encoding.md R72). -/
def Instr.isCommand : Instr → Bool
  | .handshake | .reset | .switchmode _ | .check | .ping | .readflash _ _ => true
  | .icpAddress7b0 | .icpAddress15b8 | .icpAddress23b16 | .icpRead | .icpWrite | .icpReadCustomBlock => false
  | .modeIcp | .modeAlt | .opProbe | .opPing | .opPre => false

end Sys2Proof
end

