-- ==== Sys2Proof/Decode.lean ====
section
/-! DEFINITION. Decoding and encoding, both written from the tables of 30_encoding.md (R72 for command words, R80
to R89 for wire values). Decoding is total and rejects by name. -/

namespace Sys2Proof

open Machine

/-- Why a code is no instruction. -/
inductive DecodeError where
  /-- `OP` is 0x0 or 0x7 to 0xF: the word selects no operation (R74). -/
  | reservedOp (op : BitVec 4)
  /-- The byte is none of the eleven wire values (R91). -/
  | notAWireValue (b : Byte)
deriving DecidableEq, Repr

/-- Field `OP`, bits 31:28 (R72). -/
def fieldOp (w : Word) : BitVec 4 := w.extractLsb' 28 4
/-- Field `CB`, bit 24 (R72). -/
def fieldCb (w : Word) : Bool := w.getLsbD 24
/-- Field `ADDR`, bits 23:0 (R72). -/
def fieldAddr (w : Word) : Addr24 := w.extractLsb' 0 24
/-- Field `TGT`, bits 7:0, overlaying `ADDR` (R72). -/
def fieldTgt (w : Word) : Byte := w.extractLsb' 0 8

/-- The command words (R72): `OP` selects the operation, bits 27:25 and every field the operation does not use
are ignored. -/
def decodeCommand (w : Word) : Except DecodeError Instr :=
  if fieldOp w = 0x1 then .ok .handshake
  else if fieldOp w = 0x2 then .ok .reset
  else if fieldOp w = 0x3 then .ok (.switchmode (fieldTgt w))
  else if fieldOp w = 0x4 then .ok .check
  else if fieldOp w = 0x5 then .ok .ping
  else if fieldOp w = 0x6 then .ok (.readflash (fieldAddr w) (fieldCb w))
  else .error (.reservedOp (fieldOp w))

/-- The wire values (R80 to R89), each matched on all eight bits. -/
def decodeWire (b : Byte) : Except DecodeError Instr :=
  if b = ICP_ADDRESS_7B0 then .ok .icpAddress7b0
  else if b = ICP_ADDRESS_15B8 then .ok .icpAddress15b8
  else if b = ICP_ADDRESS_23B16 then .ok .icpAddress23b16
  else if b = ICP_READ then .ok .icpRead
  else if b = ICP_WRITE then .ok .icpWrite
  else if b = ICP_READ_CUSTOM_BLOCK then .ok .icpReadCustomBlock
  else if b = MODE_ICP then .ok .modeIcp
  else if b = MODE_ALT then .ok .modeAlt
  else if b = OP_PROBE then .ok .opProbe
  else if b = OP_PING then .ok .opPing
  else if b = OP_PRE then .ok .opPre
  else .error (.notAWireValue b)

/-- The decoder, total on both layers. -/
def decode : Code → Except DecodeError Instr
  | .command w => decodeCommand w
  | .wire b => decodeWire b

/-- A command word built from its fields: `OP` in 31:28, zeros in 27:25, `CB` in 24, `ADDR` in 23:0 (R72). -/
def packCommand (op : BitVec 4) (cb : Bool) (addr : Addr24) : Word :=
  op ++ (0#3 ++ (BitVec.ofBool cb ++ addr))

/-- The encoder: the word or byte of an instruction, ignored bits written 0 ("a host writes 0", R72). -/
def encode : Instr → Code
  | .handshake => .command (packCommand 0x1 false 0)
  | .reset => .command (packCommand 0x2 false 0)
  | .switchmode tgt => .command (packCommand 0x3 false (0#16 ++ tgt))
  | .check => .command (packCommand 0x4 false 0)
  | .ping => .command (packCommand 0x5 false 0)
  | .readflash addr cb => .command (packCommand 0x6 cb addr)
  | .icpAddress7b0 => .wire ICP_ADDRESS_7B0
  | .icpAddress15b8 => .wire ICP_ADDRESS_15B8
  | .icpAddress23b16 => .wire ICP_ADDRESS_23B16
  | .icpRead => .wire ICP_READ
  | .icpWrite => .wire ICP_WRITE
  | .icpReadCustomBlock => .wire ICP_READ_CUSTOM_BLOCK
  | .modeIcp => .wire MODE_ICP
  | .modeAlt => .wire MODE_ALT
  | .opProbe => .wire OP_PROBE
  | .opPing => .wire OP_PING
  | .opPre => .wire OP_PRE

/-- The bits of a command word that the operation it selects reads; the rest are ignored (R72). A wire
value uses none: it stands in no command word. -/
def usedBits : Instr → Word
  | .switchmode _ => 0xF00000FF
  | .readflash _ _ => 0xF1FFFFFF
  | .handshake | .reset | .check | .ping => 0xF0000000
  | .icpAddress7b0 | .icpAddress15b8 | .icpAddress23b16 | .icpRead | .icpWrite | .icpReadCustomBlock => 0
  | .modeIcp | .modeAlt | .opProbe | .opPing | .opPre => 0

/-- The mask of an instruction's row in spec/opcode_table.json, by layer. -/
def rowMask : Instr → Code
  | .handshake | .reset | .switchmode _ | .check | .ping | .readflash _ _ => .command 0xF0000000
  | .icpAddress7b0 | .icpAddress15b8 | .icpAddress23b16 | .icpRead | .icpWrite | .icpReadCustomBlock => .wire 0xFF
  | .modeIcp | .modeAlt | .opProbe | .opPing | .opPre => .wire 0xFF

/-- The match value of an instruction's row in spec/opcode_table.json, by layer. -/
def rowMatch : Instr → Code
  | .handshake => .command 0x10000000
  | .reset => .command 0x20000000
  | .switchmode _ => .command 0x30000000
  | .check => .command 0x40000000
  | .ping => .command 0x50000000
  | .readflash _ _ => .command 0x60000000
  | .icpAddress7b0 => .wire 0x40
  | .icpAddress15b8 => .wire 0x41
  | .icpAddress23b16 => .wire 0x4C
  | .icpRead => .wire 0x44
  | .icpWrite => .wire 0x42
  | .icpReadCustomBlock => .wire 0x4A
  | .modeIcp => .wire 0x96
  | .modeAlt => .wire 0xA5
  | .opProbe => .wire 0x43
  | .opPing => .wire 0x49
  | .opPre => .wire 0x46

/-- The bits of a code under a mask of the same layer. -/
def Code.masked : Code → Code → Option Code
  | .command w, .command m => some (.command (w &&& m))
  | .wire b, .wire m => some (.wire (b &&& m))
  | _, _ => none

/-- The code a row of the opcode table stands for: a row of at most 8 bits is a wire value, any other a command
word (30_encoding.md R70). -/
def tableCode (nbits w : Nat) : Code :=
  if nbits ≤ 8 then .wire (BitVec.ofNat 8 w) else .command (BitVec.ofNat 32 w)

/-- The instruction the decoder reads from a row's bits, numbered as spec/opcode_table.json numbers them. -/
def decodeTableWord (nbits w : Nat) : Option Instr :=
  match decode (tableCode nbits w) with
  | .ok i => some i
  | .error _ => none

end Sys2Proof
end

