-- ==== Sys2Proof/Config.lean ====
section
/-! DEFINITION. What the spec leaves open: the chip configuration and the free values. None has a body, so no
proof can rest on a value of one (assumption log, entries 3, 7, 8 and 12). -/

namespace Sys2Proof

/-- The two configuration inputs of 00_scope.md R6, which a model takes as independent arguments (D19). -/
structure ChipConfig where
  /-- `EXTRA_PREAMBLE`: send 0x46, 0xFE, 0xFF before addressing. -/
  extraPreamble : Bool
  /-- `ADDR_HIGH_FIELD`: send selector 0x4C and address bits 23:16. -/
  addrHighField : Bool
deriving DecidableEq, Repr

/-- The level of `EXTRA_PREAMBLE` when hardware reset is released: OPEN (00_scope.md R6). -/
opaque Config.extraPreamble : Bool

/-- The level of `ADDR_HIGH_FIELD` when hardware reset is released: OPEN (00_scope.md R6). -/
opaque Config.addrHighField : Bool

/-- The DOUT oracle, from sample index to bit, where no script gives the bit (10_state.md R31, U10). -/
opaque Config.freeDraw : Nat → Bool

/-- The value of a host read the spec leaves unspecified (93_implementation_defined.md U6). -/
opaque Config.freeRead : Nat → Word

/-- The levels the three output latches have at the first `Cfg` after a hardware reset: bit 0 is CLK, bit 1 is
DIN, bit 2 is MSEL (93_implementation_defined.md U11). -/
opaque Config.freeLatches : Nat → BitVec 3

end Sys2Proof
end

