-- ==== Sys2Proof/Machine/State.lean ====
section
/-! DEFINITION. The state of one engine instance (10_state.md R20 to R39), the reasons a step can stop, and the
state right after hardware reset. -/

namespace Sys2Proof.Machine

/-- The mode register's four values (10_state.md R21). -/
inductive Mode where
  /-- No handshake has completed since hardware reset. -/
  | uninitialized
  /-- Handshake or RESET done, no mode entered since (the source's `Reset`). -/
  | modeReset
  /-- The programming mode was last entered. -/
  | icpMode
  /-- The alternate mode was last entered. -/
  | altMode
deriving DecidableEq, Repr

/-- The three lines the engine drives (10_state.md R27). -/
inductive Line where
  | clk
  | din
  | msel
deriving DecidableEq, Repr

/-- One line event (00_scope.md R12). -/
inductive Event where
  /-- `Cfg`: the line directions are configured (40_line_events.md R101). -/
  | cfg
  /-- `Set(L)`: the line is driven high (R102). -/
  | set (l : Line)
  /-- `Clr(L)`: the line is driven low (R103). -/
  | clr (l : Line)
  /-- `Wait(n)`: at least `n` microseconds pass (R106). -/
  | wait (n : Nat)
  /-- `Smp(b)`: DOUT was sampled and gave `b` (R105). -/
  | smp (b : Bool)
deriving DecidableEq, Repr

/-- The three reasons for a refusal (60_exceptions.md R182). -/
inductive RefuseReason where
  | reservedOp
  | badTarget
  | notInitialized
deriving DecidableEq, Repr

/-- One action the sequencer has still to perform (10_state.md R23): a line event, a call of an operation or of a
transfer primitive, a loop test, or a register write. The position inside an operation, with its nested calls,
is the list of these that is left. -/
inductive Item where
  /-- `Cfg()`. -/
  | cfg
  /-- `Set(L)`. -/
  | set (l : Line)
  /-- `Clr(L)`. -/
  | clr (l : Line)
  /-- `Wait(n)`. -/
  | wait (n : Nat)
  /-- `ACC <- ACC | (Smp() << BITN)`. -/
  | sample
  /-- Call of `pulseClock`. -/
  | pulse
  /-- An opcode-table value to be sent in the frame its row names. -/
  | wire (b : Byte)
  /-- A data byte to be sent in a command frame. -/
  | data (v : Byte)
  /-- Address field 0, 1 or 2 of the `ADDR` latch, to be sent in a command frame. -/
  | addrField (k : Fin 3)
  /-- The read opcode that the `CB` latch selects. -/
  | readOpcode
  /-- The three preamble bytes, if `EXTRA_PREAMBLE`. -/
  | preamble
  /-- The third address field with its selector, if `ADDR_HIGH_FIELD`. -/
  | highField
  /-- Transmitter: drive DIN to bit `BITN` of `v`, then a pulse. -/
  | txBit (v : Byte)
  /-- Transmitter: count `BITN` down, or leave the loop at 0. -/
  | txNext (v : Byte)
  /-- Call of `receiveByte`. -/
  | receive
  /-- Receiver: a pulse, a sample, the next bit. -/
  | rxBit
  /-- Receiver: count `BITN` up, or leave the loop at 7. -/
  | rxNext
  /-- Write of `BITN`. -/
  | setBitn (n : BitVec 3)
  /-- `ACC <- 0`. -/
  | clearAcc
  /-- Load of `LOOP` with a literal count. -/
  | loadLoop (n : Nat)
  /-- Loop of `LowPulse(l, a, b)` while `LOOP` is not 0. -/
  | lowTrain (l : Line) (a b : Nat)
  /-- Loop of `pulseClock` while `LOOP` is not 0. -/
  | pulseTrain
  /-- Start of the sixteen receive frames: `BYTEN <- 0`. -/
  | recvBlock
  /-- One receive frame of the block, then its store. -/
  | recvNext
  /-- `RBUF[BYTEN] <- ACC`, then the next byte, or the end of the block. -/
  | storeByte
  /-- Keep the first byte of CHECK while the second is received. -/
  | holdFirst
  /-- `CHK <- (a == 0x69)` for the kept byte `a`. -/
  | setChk (a : Byte)
  /-- `mode <- m`. -/
  | setMode (m : Mode)
  /-- The host command HANDSHAKE. -/
  | opHandshake
  /-- The host command RESET. -/
  | opReset
  /-- The host command SWITCHMODE on the `TGT` latch. -/
  | opSwitch
  /-- The host command CHECK. -/
  | opCheck
  /-- The host command PING. -/
  | opPing
  /-- The host command READFLASH on the `ADDR` and `CB` latches. -/
  | opReadflash
  /-- Internal call of RESET. -/
  | callReset
  /-- Internal call of SWITCHMODE. -/
  | callSwitch (t : Byte)
  /-- Internal call of PING. -/
  | callPing
  /-- The refusal of the accepted command, in place of its operation (60_exceptions.md R182). -/
  | refuse (r : RefuseReason)
deriving DecidableEq, Repr

/-- What the outside world does next (10_state.md R29, R30; 70_reset_and_hazards.md R200). -/
inductive Input where
  /-- A write to `CMD` by a host that then waits until `BUSY` falls: the source's blocking call. -/
  | call (w : Word)
  /-- A write to a register of the window; number 0 is `CMD`. -/
  | write (n : Nat) (w : Word)
  /-- A read of a register of the window. -/
  | read (n : Nat)
  /-- Nothing happens outside while the sequencer performs one action. -/
  | tick
  /-- Nothing happens outside while the sequencer performs its next byte frame. -/
  | frame
  /-- The hardware reset input is asserted. -/
  | hardReset
deriving DecidableEq, Repr

/-- Memory the engine reads and writes (00_scope.md R10): address and byte pairs, addresses strictly rising, no
pair holding what an unlisted address reads as. -/
abbrev Memory := List Host.Cell

/-- Why the machine stops. -/
inductive Fault where
  /-- The host accessed register `n`, and the window has the numbers 0 to 31 only (20_memory.md R50). Raised by
  the host port (`Sys2Proof.Machine.portRead`, `portWrite`), by no instruction. Safe: the model stops where the
  spec gives no register. -/
  | outsideWindow (n : Nat)
deriving DecidableEq, Repr

/-- Why the model gives no meaning. -/
inductive Refusal where
  /-- An instruction without a meaning in the model. Raised by no arm of `exec`: every instruction has its
  meaning. Safe: the model stops. -/
  | notModelled (mnemonic : String)
deriving DecidableEq, Repr

/-- The state of one engine instance. -/
structure State where
  /-- `mode` (R21). -/
  mode : Mode
  /-- Output latch CLK (R27). -/
  clk : Bool
  /-- Output latch DIN (R27). -/
  din : Bool
  /-- Output latch MSEL (R27). -/
  msel : Bool
  /-- Direction flag: the three outputs are driven (R27). -/
  oe : Bool
  /-- The read buffer, addresses 0 to 15 (R25). -/
  rbuf : Memory
  /-- The result flag of CHECK (R26). -/
  chk : Bool
  /-- Operand latch ADDR (R24). -/
  addr : Addr24
  /-- Operand latch CB (R24). -/
  cb : Bool
  /-- Operand latch TGT (R24). -/
  tgt : Byte
  /-- `BUSY` (R30). -/
  busy : Bool
  /-- `ERR`, sticky (R30). -/
  err : Bool
  /-- `SEQ`: the actions left of the running operation, `Idle` when empty (R23). -/
  seq : List Item
  /-- Receive accumulator (R32). -/
  acc : Byte
  /-- Bit index (R32). -/
  bitn : BitVec 3
  /-- Loop counter (R33). -/
  loop : BitVec 16
  /-- Byte index (R32). -/
  byten : BitVec 4
  /-- The configuration inputs (R34): no step writes them. -/
  cfg : ChipConfig
  /-- The trace `T` (R35), newest event first; `State.trace` gives it in order. -/
  events : List Event
  /-- The model's own: the bits the target presents at the coming samples (R31). -/
  dout : List Bool
  /-- The model's own: how many samples have been taken (R31). -/
  draws : Nat
  /-- The model's own: a CHECK has completed since hardware reset (R26). -/
  chkValid : Bool
  /-- The model's own: a READFLASH has completed since hardware reset (R25). -/
  rbufValid : Bool
  /-- The model's own: the mark of 60_exceptions.md R182, the reason of the latest refusal. -/
  refusal : Option RefuseReason
  /-- The model's own: what the outside world does next, in order. -/
  inputs : List Input
  /-- The model's own: the word the latest host read returned. -/
  readData : Word
  /-- The model's own: counter of the free values host reads have taken (U6). -/
  freeReads : Nat
  /-- The model's own: counter of the free values first configurations have taken (U11). -/
  freeLatches : Nat
deriving DecidableEq, Repr

/-- The machine right after hardware reset (10_state.md R39). The spec gives `mode`, `OE`, `BUSY`, `ERR`, `SEQ`
and `T`; every other register is 0 by the model's choice (assumption log, entry 2), the configuration inputs are
whatever the chip has (entry 12), and nothing outside has happened yet. -/
def State.reset : State where
  mode := .uninitialized
  clk := false
  din := false
  msel := false
  oe := false
  rbuf := []
  chk := false
  addr := 0
  cb := false
  tgt := 0
  busy := false
  err := false
  seq := []
  acc := 0
  bitn := 0
  loop := 0
  byten := 0
  cfg := ⟨Config.extraPreamble, Config.addrHighField⟩
  events := []
  dout := []
  draws := 0
  chkValid := false
  rbufValid := false
  refusal := none
  inputs := []
  readData := 0
  freeReads := 0
  freeLatches := 0

end Sys2Proof.Machine
end

