-- ==== Sys2Proof/Machine/Ops.lean ====
section
/-! DEFINITION. The shared operations: the read buffer's memory, the line events of 40_line_events.md, the pulse
shapes, counted repetition, the refusal of a command, and hardware reset. -/

namespace Sys2Proof.Machine

/-! ### Memory (20_memory.md R50, R54) -/

/-- What an address of the read buffer reads as when no pair names it (assumption log, entry 15). -/
def unlistedByte : Byte := 0

/-- One byte of memory. -/
def Memory.read : Memory → Nat → Byte
  | [], _ => unlistedByte
  | (k, v) :: rest, a => if k = a then v else Memory.read rest a

/-- `MemWrite(RBUF, a, 1, v)` (00_scope.md R10), keeping the canonical form. -/
def Memory.write : Memory → Nat → Byte → Memory
  | [], a, v => if v = unlistedByte then [] else [(a, v)]
  | (k, w) :: rest, a, v =>
    if a < k then
      if v = unlistedByte then (k, w) :: rest else (a, v) :: (k, w) :: rest
    else if a = k then
      if v = unlistedByte then rest else (a, v) :: rest
    else (k, w) :: Memory.write rest a v

/-- Every pair stands at an address of at least `lo` and below `hi`, the addresses rise strictly, and no pair
holds what an unlisted address reads as. -/
def Memory.wfFrom (hi : Nat) : Nat → Memory → Bool
  | _, [] => true
  | lo, (k, v) :: rest => decide (lo ≤ k) && decide (k < hi) && decide (v ≠ unlistedByte) && Memory.wfFrom hi (k + 1) rest

/-- The canonical form of the read buffer: addresses 0 to 15 only (R25). -/
def Memory.wf (m : Memory) : Bool := Memory.wfFrom blockLen 0 m

/-! ### The trace and the lines (00_scope.md R12, 10_state.md R27) -/

/-- The trace `T` in order, oldest event first. -/
def State.trace (s : State) : List Event := s.events.reverse

/-- `T <- T ++ [e]`. -/
def emit (e : Event) (s : State) : State := { s with events := e :: s.events }

/-- The output latch of a line. -/
def State.latch (s : State) : Line → Bool
  | .clk => s.clk
  | .din => s.din
  | .msel => s.msel

/-- `L <- b`. -/
def setLatch (l : Line) (b : Bool) (s : State) : State :=
  match l with
  | .clk => { s with clk := b }
  | .din => { s with din := b }
  | .msel => { s with msel := b }

/-- The level on the wire: that of the latch while `OE == 1`, none while the line is not driven (R27). -/
def State.pin (s : State) (l : Line) : Option Bool := if s.oe then some (s.latch l) else none

/-! ### Line events (40_line_events.md) -/

/-- `Cfg()` (R101). When the outputs were not driven before, the latches take free values (U11). -/
def cfgLines (s : State) : State :=
  if s.oe then emit .cfg s
  else
    let f := Config.freeLatches s.freeLatches
    emit .cfg { s with
      oe := true, clk := f.getLsbD 0, din := f.getLsbD 1, msel := f.getLsbD 2, freeLatches := s.freeLatches + 1 }

/-- `Set(L)` (R102). -/
def setLine (l : Line) (s : State) : State := emit (.set l) (setLatch l true s)

/-- `Clr(L)` (R103). -/
def clrLine (l : Line) (s : State) : State := emit (.clr l) (setLatch l false s)

/-- `Drive(L, b)` (R104): one event, whether or not the level changes. -/
def driveLine (l : Line) (b : Bool) (s : State) : State := if b then setLine l s else clrLine l s

/-- `Wait(n)` (R106). -/
def waitUs (n : Nat) (s : State) : State := emit (.wait n) s

/-- The `k`-th sample to come: scripted where the script reaches, free beyond it (10_state.md R31). -/
def State.drawAt (s : State) (k : Nat) : Bool :=
  match s.dout[k]? with
  | some b => b
  | none => Config.freeDraw (s.draws + k)

/-- `Smp()` (R105): the next draw is taken and recorded. The bit it returns is `s.drawAt 0`. -/
def smpDout (s : State) : State :=
  emit (.smp (s.drawAt 0)) { s with dout := s.dout.tail, draws := s.draws + 1 }

/-! ### Pulse shapes and counted repetition (40_line_events.md R107, 10_state.md R33) -/

/-- `LowPulse(L, a, b)`. -/
def lowPulse (l : Line) (a b : Nat) (s : State) : State := waitUs b (setLine l (waitUs a (clrLine l s)))

/-- `HighPulse(L, a, b)`. -/
def highPulse (l : Line) (a b : Nat) (s : State) : State := waitUs b (clrLine l (waitUs a (setLine l s)))

/-- `f` applied `n` times. -/
def times : Nat → (State → State) → State → State
  | 0, _, s => s
  | n + 1, f, s => times n f (f s)

/-- One count of `LOOP`. -/
def countLoop (s : State) : State := { s with loop := s.loop - 1 }

/-- `repeat n times { body }`: `LOOP` is loaded with `n` and counts down to 0 (R33). -/
def repeatLoop (n : Nat) (body : State → State) (s : State) : State :=
  times n (fun t => body (countLoop t)) { s with loop := BitVec.ofNat 16 n }

/-! ### Refusal and hardware reset -/

/-- `refuse(reason)` (60_exceptions.md R182): `ERR <- 1` and nothing else; the reason is kept in the model's
mark. This engine takes no exception, and this is the one shared operation beside them (R180, R185). -/
def refuse (r : RefuseReason) (s : State) : State := { s with err := true, refusal := some r }

/-- The start of every command that needs the lines configured: refused while `Uninitialized` (R182). -/
def whenInitialized (op : State → State) (s : State) : State :=
  if s.mode = .uninitialized then refuse .notInitialized s else op s

/-- Hardware reset (70_reset_and_hazards.md R200): every state element takes its reset value and `T` is emptied.
What is not engine state stays: the configuration inputs, what the outside world does next, the target's script
and the counters of the free values. -/
def hardReset (s : State) : State :=
  { State.reset with
    cfg := s.cfg, inputs := s.inputs, dout := s.dout, draws := s.draws, readData := s.readData,
    freeReads := s.freeReads, freeLatches := s.freeLatches }

end Sys2Proof.Machine
end

