-- ==== Sys2Proof/Machine/Operands.lean ====
section
/-! DEFINITION. Operands: which commands are refused on acceptance, the latches loaded when a command is not, and the
fields the operations use (30_encoding.md R72 to R74; 10_state.md R24). -/

namespace Sys2Proof.Machine

/-- Whether a command accepted in the mode `m` is refused, and why (60_exceptions.md R182), in the order of the
checks (R183). A wire value is no command, and is never refused. -/
def refusalReason (i : Instr) (m : Mode) : Option RefuseReason :=
  match i with
  | .switchmode t =>
    if legalTarget t then if m = .uninitialized then some .notInitialized else none else some .badTarget
  | .reset | .check | .ping | .readflash _ _ => if m = .uninitialized then some .notInitialized else none
  | .handshake => none
  | .icpAddress7b0 | .icpAddress15b8 | .icpAddress23b16 | .icpRead | .icpWrite | .icpReadCustomBlock => none
  | .modeIcp | .modeAlt | .opProbe | .opPing | .opPre => none

/-- `ADDR <- bits[23:0]`, `CB <- bits[24]`, `TGT <- bits[7:0]` (R72), whatever the operation. -/
def latchOperands (w : Word) (s : State) : State :=
  { s with addr := fieldAddr w, cb := fieldCb w, tgt := fieldTgt w }

/-- The latches on acceptance of the command `i` with the word `w`: a command that is refused changes nothing but
`ERR` (R74, 60_exceptions.md R185), so it loads none (assumption log, entry 11). -/
def acceptOperands (i : Instr) (w : Word) (s : State) : State :=
  match refusalReason i s.mode with
  | none => latchOperands w s
  | some _ => s

/-- The three wire fields of an address (R73): `A0 = ADDR[7:0]`, `A1 = ADDR[15:8]`, `A2 = ADDR[23:16]`. -/
def addrByte (a : Addr24) (k : Fin 3) : Byte := a.extractLsb' (8 * k.val) 8

/-- The read opcode that `CB` selects (R83, R85). -/
def readOpcodeOf (cb : Bool) : Byte := if cb then ICP_READ_CUSTOM_BLOCK else ICP_READ

/-- The number of a mode (10_state.md R21). -/
def Mode.code : Mode → Byte
  | .uninitialized => MODE_UNINITIALIZED
  | .modeReset => MODE_RESET
  | .icpMode => MODE_ICP
  | .altMode => MODE_ALT

/-- The mode a legal target names; 0xA5 is the only other legal one (43_mode_switch.md R137). -/
def modeOfTarget (t : Byte) : Mode := if t = MODE_ICP then .icpMode else .altMode

end Sys2Proof.Machine
end

