-- ==== Sys2Proof/Machine/Flags.lean ====
section
/-! DEFINITION. The flag computations: the result flag of CHECK (44_probes.md R150) and the STATUS register with
its fields (10_state.md R30). -/

namespace Sys2Proof.Machine

/-- `CHK <- (a == 0x69)` (R150), and from then on `CHK` has a value (10_state.md R26). -/
def writeChk (a : Byte) (s : State) : State := { s with chk := a == CHECK_ECHO, chkValid := true }

/-- STATUS from its fields: bit 0 BUSY, bit 1 CHK, bit 2 ERR, bits 15:8 MODE, all others 0 (R30). -/
def statusWord (busy chk err : Bool) (mode : Byte) : Word :=
  0#16 ++ (mode ++ (0#5 ++ (BitVec.ofBool err ++ (BitVec.ofBool chk ++ BitVec.ofBool busy))))

/-- CONFIG: bit 0 EXTRA_PREAMBLE, bit 1 ADDR_HIGH_FIELD, all others 0 (10_state.md R29). -/
def configWord (c : ChipConfig) : Word :=
  0#30 ++ (BitVec.ofBool c.addrHighField ++ BitVec.ofBool c.extraPreamble)

end Sys2Proof.Machine
end

