-- ==== Sys2Proof/Machine/Transfer.lean ====
section
/-! DEFINITION. The clock-pulse generator and the three byte serializers (41_transfer_primitives.md). -/

namespace Sys2Proof.Machine

/-- `pulseClock()` (R110). -/
def pulseClock (s : State) : State := highPulse .clk tPulseHigh tPulseLow s

/-- `pulseClocks(n)` (R111). -/
def pulseClocks (n : Nat) (s : State) : State := repeatLoop n pulseClock s

/-- One data bit of a transmitter: DIN is driven to `v[i]`, then one pulse. -/
def sendBit (v : Byte) (s : State) (i : Nat) : State :=
  pulseClock (driveLine .din (v.getLsbD i) { s with bitn := BitVec.ofNat 3 i })

/-- The eight data bits of a transmitter, bit 7 first (20_memory.md R53). -/
def sendBits (v : Byte) (s : State) : State := [7, 6, 5, 4, 3, 2, 1, 0].foldl (sendBit v) s

/-- `sendByteMSBFirst(v)` (R112): the command frame of 30_encoding.md R75. -/
def sendByteMSBFirst (v : Byte) (s : State) : State := pulseClock (clrLine .din (sendBits v s))

/-- `sendModeByte(v)` (R113): the mode frame of 30_encoding.md R76. -/
def sendModeByte (v : Byte) (s : State) : State := pulseClock (pulseClock (sendBits v s))

/-- `b <- Smp(); ACC <- ACC | (zext_8(b) << i)` at the bit index `BITN` (R114). -/
def sampleBit (s : State) : State :=
  let b := s.drawAt 0
  let t := smpDout s
  { t with acc := t.acc ||| (BitVec.setWidth 8 (BitVec.ofBool b) <<< t.bitn.toNat) }

/-- One bit of the receiver: a pulse, then the sample at bit `i`. -/
def receiveBit (s : State) (i : Nat) : State := sampleBit (pulseClock { s with bitn := BitVec.ofNat 3 i })

/-- `receiveByte()` (R114): the receive frame of 30_encoding.md R77; the byte it returns is left in `ACC`. -/
def receiveByte (s : State) : State :=
  pulseClock ([0, 1, 2, 3, 4, 5, 6, 7].foldl receiveBit { clrLine .din s with acc := 0 })

/-- Is the byte a mode value, sent in a mode frame and in no other (30_encoding.md R78, R86)? -/
def isModeValue (b : Byte) : Bool := b == MODE_ICP || b == MODE_ALT

end Sys2Proof.Machine
end

