-- ==== Sys2Proof/Machine/ModeSwitch.lean ====
section
/-! DEFINITION. The mode-switch controller: RESET and SWITCHMODE (43_mode_switch.md), and PING, which SWITCHMODE
calls (44_probes.md R151). -/

namespace Sys2Proof.Machine

/-- The AltMode branch of RESET (R131). -/
def resetFromAlt (s : State) : State :=
  { clrLine .msel (repeatLoop nAltReset (lowPulse .clk tStep tStep) (setLine .msel s)) with mode := .modeReset }

/-- The IcpMode branch of RESET (R132). -/
def resetFromIcp (s : State) : State :=
  { highPulse .msel tStep tStep (setLine .clk s) with mode := .modeReset }

/-- `RESET` (R130 to R134), as a command and as an internal call. -/
def runReset (s : State) : State :=
  match s.mode with
  | .uninitialized => refuse .notInitialized s
  | .modeReset => s
  | .altMode => resetFromAlt s
  | .icpMode => resetFromIcp s

/-- `PING` without its guard (R151): two command frames. -/
def runPing (s : State) : State := sendByteMSBFirst FILL_FF (sendByteMSBFirst OP_PING s)

/-- The IcpMode tail of SWITCHMODE (R136). -/
def icpTail (s : State) : State := runPing (waitUs tStep (setLine .clk (waitUs tIcpEntry s)))

/-- The AltMode tail of SWITCHMODE (R138): the documented prefix and nothing more. -/
def altTail (s : State) : State := pulseClocks nAltB (clrLine .msel (pulseClocks nAltA (setLine .msel s)))

/-- The entry of a mode from `ModeReset` (R135). -/
def enterMode (t : Byte) (s : State) : State :=
  let s1 := sendModeByte t (waitUs tStep (clrLine .clk s))
  { (if t = MODE_ICP then icpTail s1 else altTail s1) with mode := modeOfTarget t }

/-- SWITCHMODE after its checks: nothing when the mode is the target (R139), otherwise through RESET (R140). -/
def switchTo (t : Byte) (s : State) : State :=
  if s.mode.code = t then s
  else enterMode t (if s.mode = .modeReset then s else runReset s)

/-- `SWITCHMODE` (R135): BadTarget is checked before NotInitialized (60_exceptions.md R183). -/
def runSwitch (t : Byte) (s : State) : State :=
  if legalTarget t then whenInitialized (switchTo t) s else refuse .badTarget s

/-- `RESET` (R130). -/
def execReset (s : State) : Host.Outcome State Fault Refusal := .next (runReset s)

/-- `SWITCHMODE tgt` (R135). -/
def execSwitchmode (tgt : Byte) (s : State) : Host.Outcome State Fault Refusal := .next (runSwitch tgt s)

end Sys2Proof.Machine
end

