-- ==== Sys2Proof/Machine/Probes.lean ====
section
/-! DEFINITION. The probes CHECK and PING (44_probes.md). -/

namespace Sys2Proof.Machine

/-- `CHECK_PREFIX` (R150, D16): the five listed bytes. This is the one place where the model holds them: CHECK run
whole and CHECK in the sequencer both take them from here. -/
def checkPrefix : List Byte := [ICP_ADDRESS_7B0, CHECK_ECHO, ICP_ADDRESS_15B8, FILL_FF, FILL_FF]

/-- All that CHECK sends (R150): the prefix, then the probe opcode. -/
def checkBytes : List Byte := checkPrefix ++ [OP_PROBE]

/-- Bytes sent one after the other, each in a command frame. -/
def sendBytes (vs : List Byte) (s : State) : State := vs.foldl (fun t v => sendByteMSBFirst v t) s

/-- `CHECK` without its guard (R150): the first received byte decides, the second is discarded. -/
def runCheck (s : State) : State :=
  let first := receiveByte (sendBytes checkBytes (clrLine .clk s))
  writeChk first.acc (receiveByte first)

/-- `CHECK` (R150, R152): any mode but Uninitialized. -/
def execCheck (s : State) : Host.Outcome State Fault Refusal := .next (whenInitialized runCheck s)

/-- `PING` (R151, R152): any mode but Uninitialized. -/
def execPing (s : State) : Host.Outcome State Fault Refusal := .next (whenInitialized runPing s)

end Sys2Proof.Machine
end

