-- ==== Sys2Proof/Machine/FlashRead.lean ====
section
/-! DEFINITION. The flash-block read sequencer: READFLASH (45_flash_read.md R160). -/

namespace Sys2Proof.Machine

/-- The three preamble bytes of phase P3 (R162). -/
def preambleBytes : List Byte := [OP_PRE, PRE_FE, FILL_FF]

/-- The bytes sent in command frames after the ping, phases P3 to P6 (R160): preamble if configured, each address
field after its selector, the third field if configured, the read opcode. -/
def readBytes (c : ChipConfig) (addr : Addr24) (cb : Bool) : List Byte :=
  (if c.extraPreamble then preambleBytes else [])
    ++ [ICP_ADDRESS_7B0, addrByte addr 0, ICP_ADDRESS_15B8, addrByte addr 1]
    ++ (if c.addrHighField then [ICP_ADDRESS_23B16, addrByte addr 2] else [])
    ++ [readOpcodeOf cb]

/-- `RBUF[k] <- receiveByte()` (phase P7). -/
def receiveInto (s : State) (k : Nat) : State :=
  let t := receiveByte { s with byten := BitVec.ofNat 4 k }
  { t with rbuf := t.rbuf.write k t.acc }

/-- Phase P7: exactly sixteen receive frames, in ascending order (R165). -/
def receiveBlock (s : State) : State :=
  { (List.range blockLen).foldl receiveInto s with rbufValid := true }

/-- READFLASH without its guard: RESET and SWITCHMODE 0x96 unconditionally (R161), then P3 to P7. -/
def runReadflash (addr : Addr24) (cb : Bool) (s : State) : State :=
  receiveBlock (sendBytes (readBytes s.cfg addr cb) (runSwitch MODE_ICP (runReset s)))

/-- `READFLASH addr, cb` (R160). -/
def execReadflash (addr : Addr24) (cb : Bool) (s : State) : Host.Outcome State Fault Refusal :=
  .next (whenInitialized (runReadflash addr cb) s)

end Sys2Proof.Machine
end

