-- ==== Sys2Proof/Machine/Handshake.lean ====
section
/-! DEFINITION. Construction: the entry handshake (42_entry_handshake.md R120). -/

namespace Sys2Proof.Machine

/-- Stages S1 to S4: configure, the idle pattern (all high, D9), settle, one CLK low-pulse. -/
def handshakeWake (s : State) : State :=
  lowPulse .clk tWakeLow tWakeHigh (waitUs tSettle (setLine .msel (setLine .din (setLine .clk (cfgLines s)))))

/-- Stages S5 to S8: the four trains before the mode byte. -/
def handshakeTrains (s : State) : State :=
  repeatLoop handshakeSyncPulses (lowPulse .msel tSync tSync)
    (repeatLoop nSyncClk (lowPulse .clk tSync tSync)
      (repeatLoop nSyncDin (lowPulse .din tSync tSync)
        (repeatLoop nSyncMsel (lowPulse .msel tSync tSync) s)))

/-- Stages S9 to S12: settle, lower MSEL and CLK together, the mode byte 0x96, raise CLK. -/
def handshakeMode (s : State) : State :=
  waitUs tStep (setLine .clk (sendModeByte MODE_ICP (waitUs tStep (clrLine .clk (clrLine .msel (waitUs tPreMode s))))))

/-- Stages S13 and S14: the last CLK train and the final MSEL pulse. -/
def handshakeFinal (s : State) : State :=
  highPulse .msel tFinal tFinal (repeatLoop handshakeSyncPulses (lowPulse .clk tSync tSync) s)

/-- The whole of R120; S15 is the write of `mode`. -/
def runHandshake (s : State) : State :=
  { handshakeFinal (handshakeMode (handshakeTrains (handshakeWake s))) with mode := .modeReset }

/-- `HANDSHAKE` (R120, R121): accepted in every mode, always the whole sequence. -/
def execHandshake (s : State) : Host.Outcome State Fault Refusal := .next (runHandshake s)

end Sys2Proof.Machine
end

