-- ==== Sys2Proof/Machine/Wire.lean ====
section
/-! DEFINITION. The wire values (30_encoding.md R80 to R89): the meaning of each is that the engine puts it on
the lines in the frame its row names (R78). A host cannot start one; the sequencer runs them inside operations
(assumption log, entry 13). -/

namespace Sys2Proof.Machine

/-- 0x40 in a command frame (R80). -/
def execIcpAddress7b0 (s : State) : Host.Outcome State Fault Refusal := .next (sendByteMSBFirst ICP_ADDRESS_7B0 s)

/-- 0x41 in a command frame (R81). -/
def execIcpAddress15b8 (s : State) : Host.Outcome State Fault Refusal := .next (sendByteMSBFirst ICP_ADDRESS_15B8 s)

/-- 0x4C in a command frame (R82). -/
def execIcpAddress23b16 (s : State) : Host.Outcome State Fault Refusal := .next (sendByteMSBFirst ICP_ADDRESS_23B16 s)

/-- 0x44 in a command frame (R83). -/
def execIcpRead (s : State) : Host.Outcome State Fault Refusal := .next (sendByteMSBFirst ICP_READ s)

/-- 0x42 in a command frame (R78, R84): no operation's sequence holds it. -/
def execIcpWrite (s : State) : Host.Outcome State Fault Refusal := .next (sendByteMSBFirst ICP_WRITE s)

/-- 0x4A in a command frame (R85). -/
def execIcpReadCustomBlock (s : State) : Host.Outcome State Fault Refusal :=
  .next (sendByteMSBFirst ICP_READ_CUSTOM_BLOCK s)

/-- 0x96 in a mode frame (R86). -/
def execModeIcp (s : State) : Host.Outcome State Fault Refusal := .next (sendModeByte MODE_ICP s)

/-- 0xA5 in a mode frame (R86). -/
def execModeAlt (s : State) : Host.Outcome State Fault Refusal := .next (sendModeByte MODE_ALT s)

/-- 0x43 in a command frame (R87). -/
def execOpProbe (s : State) : Host.Outcome State Fault Refusal := .next (sendByteMSBFirst OP_PROBE s)

/-- 0x49 in a command frame (R88). -/
def execOpPing (s : State) : Host.Outcome State Fault Refusal := .next (sendByteMSBFirst OP_PING s)

/-- 0x46 in a command frame (R89). -/
def execOpPre (s : State) : Host.Outcome State Fault Refusal := .next (sendByteMSBFirst OP_PRE s)

end Sys2Proof.Machine
end

