-- ==== Sys2Proof/Machine/Dispatch.lean ====
section
/-! DEFINITION. The dispatch: one arm per constructor of Instr, each one call of its meaning. -/

namespace Sys2Proof.Machine

/-- The meaning of an instruction: a host command run from its acceptance to its end, or a wire value put on the
lines in its frame (10_state.md R23: an operation may be run as one atomic step). -/
def exec (i : Instr) (s : State) : Host.Outcome State Fault Refusal :=
  match i with
  -- host commands (30_encoding.md R72)
  | .handshake => Sys2Proof.Machine.execHandshake s
  | .reset => Sys2Proof.Machine.execReset s
  | .switchmode tgt => Sys2Proof.Machine.execSwitchmode tgt s
  | .check => Sys2Proof.Machine.execCheck s
  | .ping => Sys2Proof.Machine.execPing s
  | .readflash addr cb => Sys2Proof.Machine.execReadflash addr cb s
  -- wire values (30_encoding.md R80 to R89)
  | .icpAddress7b0 => Sys2Proof.Machine.execIcpAddress7b0 s
  | .icpAddress15b8 => Sys2Proof.Machine.execIcpAddress15b8 s
  | .icpAddress23b16 => Sys2Proof.Machine.execIcpAddress23b16 s
  | .icpRead => Sys2Proof.Machine.execIcpRead s
  | .icpWrite => Sys2Proof.Machine.execIcpWrite s
  | .icpReadCustomBlock => Sys2Proof.Machine.execIcpReadCustomBlock s
  | .modeIcp => Sys2Proof.Machine.execModeIcp s
  | .modeAlt => Sys2Proof.Machine.execModeAlt s
  | .opProbe => Sys2Proof.Machine.execOpProbe s
  | .opPing => Sys2Proof.Machine.execOpPing s
  | .opPre => Sys2Proof.Machine.execOpPre s

end Sys2Proof.Machine
end

