-- ==== Sys2Proof/Machine/Sequencer.lean ====
section
/-! DEFINITION. The sequencer (10_state.md R23): the operations as lists of actions, and one action at a time.
This is the second presentation of the operations of files 42 to 45; it is what runs when the host writes `CMD`
and looks in between. -/

namespace Sys2Proof.Machine

/-- More actions stand before those that are left: a nested call, or one more round of a loop. -/
def pushItems (body : List Item) (s : State) : State := { s with seq := body ++ s.seq }

/-- The operation is over at once (60_exceptions.md R182). -/
def abandon (r : RefuseReason) (s : State) : State := { refuse r s with seq := [] }

/-- `LowPulse(L, a, b)` as line events (40_line_events.md R107). -/
def lowPulseItems (l : Line) (a b : Nat) : List Item := [.clr l, .wait a, .set l, .wait b]

/-- `HighPulse(L, a, b)` as line events (R107). -/
def highPulseItems (l : Line) (a b : Nat) : List Item := [.set l, .wait a, .clr l, .wait b]

/-- `Drive(L, b)` as a line event (R104). -/
def driveItem (l : Line) (b : Bool) : Item := if b then .set l else .clr l

/-- The command frame (41_transfer_primitives.md R112). -/
def commandFrameItems (v : Byte) : List Item := [.setBitn 7, .txBit v, .clr .din, .pulse]

/-- The mode frame (R113). -/
def modeFrameItems (v : Byte) : List Item := [.setBitn 7, .txBit v, .pulse, .pulse]

/-- The frame in which a wire value is sent (30_encoding.md R78). -/
def wireFrameItems (b : Byte) : List Item := if isModeValue b then modeFrameItems b else commandFrameItems b

/-- The receive frame (R114). -/
def receiveFrameItems : List Item := [.clr .din, .clearAcc, .setBitn 0, .rxBit, .pulse]

/-- A counted train of low-pulses (10_state.md R33): the load of `LOOP`, then the loop. -/
def trainItems (n : Nat) (l : Line) (a b : Nat) : List Item := [.loadLoop n, .lowTrain l a b]

/-- HANDSHAKE, stages S1 to S3 (42_entry_handshake.md R120). -/
def handshakeStartItems : List Item := [.cfg, .set .clk, .set .din, .set .msel, .wait tSettle]

/-- HANDSHAKE, stages S9 to S12. -/
def handshakeModeItems : List Item :=
  [.wait tPreMode, .clr .msel, .clr .clk, .wait tStep, .wire MODE_ICP, .set .clk, .wait tStep]

/-- HANDSHAKE (R120). -/
def handshakeItems : List Item :=
  List.flatten [handshakeStartItems, lowPulseItems .clk tWakeLow tWakeHigh,
    trainItems nSyncMsel .msel tSync tSync, trainItems nSyncDin .din tSync tSync,
    trainItems nSyncClk .clk tSync tSync, trainItems handshakeSyncPulses .msel tSync tSync,
    handshakeModeItems, trainItems handshakeSyncPulses .clk tSync tSync,
    highPulseItems .msel tFinal tFinal, [.setMode .modeReset]]

/-- RESET from a mode (43_mode_switch.md R130 to R133). -/
def resetItems : Mode → List Item
  | .uninitialized => []
  | .modeReset => []
  | .altMode => [.set .msel, .loadLoop nAltReset, .lowTrain .clk tStep tStep, .clr .msel, .setMode .modeReset]
  | .icpMode => .set .clk :: (highPulseItems .msel tStep tStep).concat (.setMode .modeReset)

/-- The tail of SWITCHMODE (R136, R138). -/
def tailItems (t : Byte) : List Item :=
  if t = MODE_ICP then [.wait tIcpEntry, .set .clk, .wait tStep, .callPing]
  else [.set .msel, .loadLoop nAltA, .pulseTrain, .clr .msel, .loadLoop nAltB, .pulseTrain]

/-- SWITCHMODE from a mode, after its checks (R135, R139, R140). -/
def switchItems (m : Mode) (t : Byte) : List Item :=
  if m.code = t then []
  else
    List.flatten [if m = .modeReset then [] else [.callReset], [.clr .clk, .wait tStep, .wire t], tailItems t,
      [.setMode (modeOfTarget t)]]

/-- PING (44_probes.md R151). -/
def pingItems : List Item := [.wire OP_PING, .data FILL_FF]

/-- A byte of a fixed sequence sent in command frames, as an action: an opcode of the table is sent as that wire
value, any other byte as data (30_encoding.md R80 to R90). -/
def byteItem (b : Byte) : Item :=
  if isModeValue b then .data b
  else
    match decode (.wire b) with
    | .ok _ => .wire b
    | .error _ => .data b

/-- CHECK (R150): the bytes are those of `checkBytes`. -/
def checkItems : List Item := .clr .clk :: (checkBytes.map byteItem ++ [.receive, .holdFirst])

/-- READFLASH (45_flash_read.md R160). -/
def readflashItems : List Item :=
  [.callReset, .callSwitch MODE_ICP, .preamble,
    .wire ICP_ADDRESS_7B0, .addrField 0, .wire ICP_ADDRESS_15B8, .addrField 1,
    .highField, .readOpcode, .recvBlock]

/-- A command body that is refused while Uninitialized (60_exceptions.md R182). -/
def guarded (body : List Item) (s : State) : State :=
  if s.mode = .uninitialized then abandon .notInitialized s else pushItems body s

/-- One action, with the actions left after it in `s.seq`. A line event is performed and recorded; a call or a
loop test changes only what is left; a register write changes that register. -/
def perform (it : Item) (s : State) : State :=
  match it with
  | .cfg => cfgLines s
  | .set l => setLine l s
  | .clr l => clrLine l s
  | .wait n => waitUs n s
  | .sample => sampleBit s
  | .pulse => pushItems (highPulseItems .clk tPulseHigh tPulseLow) s
  | .wire b => pushItems (wireFrameItems b) s
  | .data v => pushItems (commandFrameItems v) s
  | .addrField k => pushItems [.data (addrByte s.addr k)] s
  | .readOpcode => pushItems [.wire (readOpcodeOf s.cb)] s
  | .preamble => pushItems (if s.cfg.extraPreamble then preambleBytes.map byteItem else []) s
  | .highField => pushItems (if s.cfg.addrHighField then [.wire ICP_ADDRESS_23B16, .addrField 2] else []) s
  | .txBit v => pushItems [driveItem .din (v.getLsbD s.bitn.toNat), .pulse, .txNext v] s
  | .txNext v => if s.bitn = 0#3 then s else pushItems [.txBit v] { s with bitn := s.bitn - 1 }
  | .receive => pushItems receiveFrameItems s
  | .rxBit => pushItems [.pulse, .sample, .rxNext] s
  | .rxNext => if s.bitn = 7#3 then s else pushItems [.rxBit] { s with bitn := s.bitn + 1 }
  | .setBitn n => { s with bitn := n }
  | .clearAcc => { s with acc := 0 }
  | .loadLoop n => { s with loop := BitVec.ofNat 16 n }
  | .lowTrain l a b => if s.loop = 0#16 then s else pushItems (lowPulseItems l a b ++ [.lowTrain l a b]) (countLoop s)
  | .pulseTrain => if s.loop = 0#16 then s else pushItems [.pulse, .pulseTrain] (countLoop s)
  | .recvBlock => pushItems [.recvNext] { s with byten := 0 }
  | .recvNext => pushItems [.receive, .storeByte] s
  | .storeByte =>
    if s.byten = 15#4 then { s with rbuf := s.rbuf.write s.byten.toNat s.acc, rbufValid := true }
    else pushItems [.recvNext] { s with rbuf := s.rbuf.write s.byten.toNat s.acc, byten := s.byten + 1 }
  | .holdFirst => pushItems [.receive, .setChk s.acc] s
  | .setChk a => writeChk a s
  | .setMode m => { s with mode := m }
  | .opHandshake => pushItems handshakeItems s
  | .opReset => guarded [.callReset] s
  | .opSwitch => if legalTarget s.tgt then guarded [.callSwitch s.tgt] s else abandon .badTarget s
  | .opCheck => guarded checkItems s
  | .opPing => guarded [.callPing] s
  | .opReadflash => guarded readflashItems s
  | .callReset => pushItems (resetItems s.mode) s
  | .callSwitch t => pushItems (switchItems s.mode t) s
  | .callPing => pushItems pingItems s
  | .refuse r => abandon r s

/-- `BUSY` falls with the last action of the operation (10_state.md R30): `SEQ` is idle exactly then (R23). -/
def settle (s : State) : State := if s.seq = [] then { s with busy := false } else s

/-- One action of the running operation; an idle engine does nothing (70_reset_and_hazards.md R201). -/
def advance (s : State) : State :=
  match s.seq with
  | [] => settle s
  | it :: rest => settle (perform it { s with seq := rest })

/-- `n` actions. -/
def advanceN : Nat → State → State
  | 0, s => s
  | n + 1, s => advanceN n (advance s)

/-- The action with which the sequencer starts an instruction. -/
def Item.start : Instr → Item
  | .handshake => .opHandshake
  | .reset => .opReset
  | .switchmode _ => .opSwitch
  | .check => .opCheck
  | .ping => .opPing
  | .readflash _ _ => .opReadflash
  | .icpAddress7b0 => .wire ICP_ADDRESS_7B0
  | .icpAddress15b8 => .wire ICP_ADDRESS_15B8
  | .icpAddress23b16 => .wire ICP_ADDRESS_23B16
  | .icpRead => .wire ICP_READ
  | .icpWrite => .wire ICP_WRITE
  | .icpReadCustomBlock => .wire ICP_READ_CUSTOM_BLOCK
  | .modeIcp => .wire MODE_ICP
  | .modeAlt => .wire MODE_ALT
  | .opProbe => .wire OP_PROBE
  | .opPing => .wire OP_PING
  | .opPre => .wire OP_PRE

/-- The first action of a command accepted in the mode `m`: its operation, or its refusal (60_exceptions.md R182). -/
def Item.first (i : Instr) (m : Mode) : Item :=
  match refusalReason i m with
  | none => Item.start i
  | some r => .refuse r

/-- Acceptance without waiting (30_encoding.md R72): `BUSY` is 1, and the sequencer stands at the operation, or at
the refusal that ends the command. -/
def startOperation (i : Instr) (s : State) : State := { s with busy := true, seq := [Item.first i s.mode] }

end Sys2Proof.Machine
end

