-- ==== Sys2Proof/Machine/Port.lean ====
section
/-! DEFINITION. The host port (10_state.md R29, R30): the command register, the register window, and what one
step does with the next thing the outside world does. -/

namespace Sys2Proof.Machine

/-- The register numbers of the window (10_state.md R29). -/
def regCmd : Nat := 0
/-- STATUS. -/
def regStatus : Nat := 1
/-- CONFIG. -/
def regConfig : Nat := 2
/-- The first of RBUF0 to RBUF15. -/
def regRbuf : Nat := 16
/-- How many registers the window has. -/
def windowSize : Nat := 32

/-- STATUS as the host reads it (R30). `CHK` is unspecified while busy and before the first CHECK, `MODE` while
busy; an unspecified bit is that bit of the free word `f` (U6). -/
def statusRead (f : Word) (s : State) : Word :=
  statusWord s.busy
    (if s.busy || !s.chkValid then f.getLsbD 1 else s.chk)
    s.err
    (if s.busy then f.extractLsb' 8 8 else s.mode.code)

/-- `RBUFi` as the host reads it (R29): bits 31:8 are 0; bits 7:0 are unspecified while busy and before the first
completed READFLASH (R25, U6). -/
def rbufRead (f : Word) (i : Nat) (s : State) : Word :=
  0#24 ++ (if s.busy || !s.rbufValid then f.extractLsb' 0 8 else s.rbuf.read i)

/-- The value of a register of the window. `CMD` is write only: what a read of it returns is nowhere stated, so
it is free (assumption log, entry 4). Numbers 3 to 15 read as 0 (R29). -/
def windowValue (f : Word) (n : Nat) (s : State) : Word :=
  if n = regCmd then f
  else if n = regStatus then statusRead f s
  else if n = regConfig then configWord s.cfg
  else if n < regRbuf then 0
  else rbufRead f (n - regRbuf) s

/-- A read of the window (R29): no side effect on any register of the engine. -/
def portRead (n : Nat) (s : State) : Host.Outcome State Fault Refusal :=
  if n < windowSize then
    .next { s with readData := windowValue (Config.freeRead s.freeReads) n s, freeReads := s.freeReads + 1 }
  else .fault (.outsideWindow n)

/-- A write to a register other than `CMD`: ignored (R29). -/
def portWrite (n : Nat) (s : State) : Host.Outcome State Fault Refusal :=
  if n < windowSize then .next s else .fault (.outsideWindow n)

/-- A command word accepted from a host that waits until `BUSY` falls: the latches are loaded, unless the command is
refused, and the operation runs to its end. A word that selects no operation is refused (30_encoding.md R74). -/
def callCommand (w : Word) (s : State) : Host.Outcome State Fault Refusal :=
  match decode (.command w) with
  | .ok i => exec i (acceptOperands i w s)
  | .error _ => .next (refuse .reservedOp s)

/-- A command word accepted from a host that goes on: the sequencer starts. -/
def acceptCommand (w : Word) (s : State) : State :=
  match decode (.command w) with
  | .ok i => startOperation i (acceptOperands i w s)
  | .error _ => refuse .reservedOp s

/-- A frame performed whole is one part of the running operation, which goes on after it. -/
def settleOutcome : Host.Outcome State Fault Refusal → Host.Outcome State Fault Refusal
  | .next t => .next (settle t)
  | .fault r => .fault r
  | .refused r => .refused r

/-- The next byte frame of the running operation, whole: a wire value is decoded and run as an instruction, a
data byte is sent, a byte is received; any other action is performed alone. -/
def frameStep (s : State) : Host.Outcome State Fault Refusal :=
  match s.seq with
  | .wire b :: rest =>
    match decode (.wire b) with
    | .ok i => settleOutcome (exec i { s with seq := rest })
    | .error _ => .next (advance s)
  | .data v :: rest => .next (settle (sendByteMSBFirst v { s with seq := rest }))
  | .receive :: rest => .next (settle (receiveByte { s with seq := rest }))
  | _ => .next (advance s)

/-- One step while `BUSY == 1` (R30): a write to `CMD` waits at the port and the operation goes on; everything
else the outside does is answered; with nothing outside the operation goes on. -/
def busyStep (s : State) : Host.Outcome State Fault Refusal :=
  match s.inputs with
  | [] => .next (advance s)
  | .call _ :: _ => .next (advance s)
  | .write n _ :: rest => if n = regCmd then .next (advance s) else portWrite n { s with inputs := rest }
  | .read n :: rest => portRead n { s with inputs := rest }
  | .tick :: rest => .next (advance { s with inputs := rest })
  | .frame :: rest => frameStep { s with inputs := rest }
  | .hardReset :: rest => .next (hardReset { s with inputs := rest })

/-- One step while `BUSY == 0`: a command is accepted, a window access is answered; otherwise the engine is idle
and holds its lines (40_line_events.md R109). -/
def idleStep (s : State) : Host.Outcome State Fault Refusal :=
  match s.inputs with
  | [] => .next s
  | .call w :: rest => callCommand w { s with inputs := rest }
  | .write n w :: rest =>
    if n = regCmd then .next (acceptCommand w { s with inputs := rest }) else portWrite n { s with inputs := rest }
  | .read n :: rest => portRead n { s with inputs := rest }
  | .tick :: rest => .next { s with inputs := rest }
  | .frame :: rest => .next { s with inputs := rest }
  | .hardReset :: rest => .next (hardReset { s with inputs := rest })

/-- An instruction put where the next step takes it from: a command word at the host port of an idle engine, a
wire value at the head of the sequencer of a busy one. -/
def placeCode (c : Code) (s : State) : State :=
  match c with
  | .command w => { s with busy := false, seq := [], inputs := .call w :: s.inputs }
  | .wire b => { s with busy := true, seq := .wire b :: s.seq, inputs := .frame :: s.inputs }

end Sys2Proof.Machine
end

