-- ==== Sys2Proof/Machine/Step.lean ====
section
/-! DEFINITION. One step of the machine, and the placing of an instruction where the next step takes it from. -/

namespace Sys2Proof.Machine

/-- One step: what the engine does with the next thing the outside world does (10_state.md R30). -/
def step (s : State) : Host.Outcome State Fault Refusal := if s.busy then busyStep s else idleStep s

/-- The state in which the very next step runs the instruction whose bits are `w` (assumption log, entry 21). -/
def State.withFetchWord (s : State) (nbits w : Nat) : State := placeCode (tableCode nbits w) s

end Sys2Proof.Machine
end

