-- ==== Sys2Proof/Machine/Trace.lean ====
section
/-! DEFINITION. The trace `T` seen from outside: the derived views of 00_scope.md R12 (pulse count, minimum time,
samples, waveform) and the event lists of the frames and operations, written from the frame tables of
30_encoding.md (R75 to R77) and the stage table of 42_entry_handshake.md (R122). The meanings do not use this
file; the statements compare them with it. -/

namespace Sys2Proof.Machine

/-! ### Derived views (R12) -/

/-- The sum of the `Wait` lower bounds, microseconds. -/
def waitSum : List Event → Nat
  | [] => 0
  | .wait n :: es => n + waitSum es
  | _ :: es => waitSum es

/-- The bits sampled, in time order. -/
def samplesOf : List Event → List Bool
  | [] => []
  | .smp b :: es => b :: samplesOf es
  | _ :: es => samplesOf es

/-- The number of `pulseClock` executions. The engine emits these four events in a row nowhere else: every other
CLK pulse of files 42 and 43 is low-going. -/
def pulseCount : List Event → Nat
  | [] => 0
  | .set .clk :: .wait 1 :: .clr .clk :: .wait 1 :: es => pulseCount es + 1
  | _ :: es => pulseCount es

/-- The level of DIN while each `pulseClock` is issued, from its level before. -/
def dinAtPulses : Bool → List Event → List Bool
  | _, [] => []
  | b, .set .clk :: .wait 1 :: .clr .clk :: .wait 1 :: es => b :: dinAtPulses b es
  | _, .set .din :: es => dinAtPulses true es
  | _, .clr .din :: es => dinAtPulses false es
  | b, _ :: es => dinAtPulses b es

/-- The level of a line after some events, from its level before. -/
def levelAfter (l : Line) : Bool → List Event → Bool
  | b, [] => b
  | b, .set m :: es => levelAfter l (if m = l then true else b) es
  | b, .clr m :: es => levelAfter l (if m = l then false else b) es
  | b, _ :: es => levelAfter l b es

/-- Rising edges of a line on the waveform: a `Set` of a line already high is an event and no edge (R12). DESIGN
CHOICE (assumption log, entry 26): a line driven away and back with no `Wait` between shows both edges here. -/
def risingEdges (l : Line) : Bool → List Event → Nat
  | _, [] => 0
  | b, .set m :: es => if m = l then (if b then 0 else 1) + risingEdges l true es else risingEdges l b es
  | b, .clr m :: es => risingEdges l (if m = l then false else b) es
  | b, _ :: es => risingEdges l b es

/-- Falling edges of a line on the waveform; both edges of a level held for no time count, as for `risingEdges`
(entry 26). -/
def fallingEdges (l : Line) : Bool → List Event → Nat
  | _, [] => 0
  | b, .clr m :: es => if m = l then (if b then 1 else 0) + fallingEdges l false es else fallingEdges l b es
  | b, .set m :: es => fallingEdges l (if m = l then true else b) es
  | b, _ :: es => fallingEdges l b es

/-- The levels of the three lines. -/
structure Levels where
  clk : Bool
  din : Bool
  msel : Bool
deriving DecidableEq, Repr

/-- One line at a new level. -/
def Levels.drive (v : Levels) (l : Line) (b : Bool) : Levels :=
  match l with
  | .clk => { v with clk := b }
  | .din => { v with din := b }
  | .msel => { v with msel := b }

/-- The waveform (R12): the levels in order, each with the minimum time it is held. Drives with no `Wait` between
them change it at the same instant; a drive to the level a line has is no change. `d` is the time the levels `v`
have been held so far. DESIGN CHOICE (assumption log, entry 26): R12 leaves open what a line driven away and back
with no `Wait` between gives; here the level held for no time is dropped, and the two equal neighbours stay two
entries. -/
def waveform : Levels → Nat → List Event → List (Levels × Nat)
  | v, d, [] => [(v, d)]
  | v, d, .wait n :: es => waveform v (d + n) es
  | v, d, .set l :: es =>
    if v.drive l true = v then waveform v d es
    else if d = 0 then waveform (v.drive l true) 0 es
    else (v, d) :: waveform (v.drive l true) 0 es
  | v, d, .clr l :: es =>
    if v.drive l false = v then waveform v d es
    else if d = 0 then waveform (v.drive l false) 0 es
    else (v, d) :: waveform (v.drive l false) 0 es
  | v, d, _ :: es => waveform v d es

/-- What is left of an event when the sampled values are forgotten. -/
def Event.shape : Event → Event
  | .smp _ => .smp false
  | .cfg => .cfg
  | .set l => .set l
  | .clr l => .clr l
  | .wait n => .wait n

/-! ### Event lists of the shapes and frames -/

/-- `LowPulse(L, a, b)` (40_line_events.md R107). -/
def lowPulseEvents (l : Line) (a b : Nat) : List Event := [.clr l, .wait a, .set l, .wait b]

/-- `HighPulse(L, a, b)` (R107). -/
def highPulseEvents (l : Line) (a b : Nat) : List Event := [.set l, .wait a, .clr l, .wait b]

/-- The four events of one clock pulse (41_transfer_primitives.md R110). -/
def pulseEvents : List Event := [.set .clk, .wait 1, .clr .clk, .wait 1]

/-- `n` copies of a list, one after the other. -/
def repeated (n : Nat) (es : List Event) : List Event := (List.replicate n es).flatten

/-- The event that drives DIN to a level (40_line_events.md R104). -/
def dinEvent (b : Bool) : Event := if b then .set .din else .clr .din

/-- One slot of a frame that drives DIN, then the pulse. -/
def slotEvents (b : Bool) : List Event := dinEvent b :: pulseEvents

/-- The eight data slots of a sent byte, bit 7 first (20_memory.md R53). -/
def dataSlots (v : Byte) : List Event :=
  slotEvents (v.getLsbD 7) ++ slotEvents (v.getLsbD 6) ++ slotEvents (v.getLsbD 5) ++ slotEvents (v.getLsbD 4)
    ++ slotEvents (v.getLsbD 3) ++ slotEvents (v.getLsbD 2) ++ slotEvents (v.getLsbD 1) ++ slotEvents (v.getLsbD 0)

/-- The command frame (30_encoding.md R75): eight data slots, then a pulse with DIN driven low. -/
def commandFrame (v : Byte) : List Event := dataSlots v ++ slotEvents false

/-- The mode frame (R76): eight data slots, then two pulses with no data line change. -/
def modeFrame (v : Byte) : List Event := dataSlots v ++ pulseEvents ++ pulseEvents

/-- The receive frame (R77) with the eight sampled bits: DIN low once, a pulse before each sample, one framing
pulse. -/
def receiveFrame (bit : Nat → Bool) : List Event :=
  .clr .din :: ((List.range 8).flatMap fun i => pulseEvents ++ [.smp (bit i)]) ++ pulseEvents

/-- The byte eight samples make, least significant bit first (R77, 41_transfer_primitives.md R114): the sum over
`i` of `bit i * 2^i`. -/
def byteOfSamples (bit : Nat → Bool) : Byte :=
  BitVec.ofNat 8 ((List.range 8).foldl (fun n i => n + (bit i).toNat * 2 ^ i) 0)

/-- The `k`-th byte the target will present, from the samples to come. -/
def State.incoming (s : State) (k : Nat) : Byte := byteOfSamples fun i => s.drawAt (8 * k + i)

/-- Receive frames for the next `n` bytes to come. -/
def receiveFrames (s : State) (n : Nat) : List Event :=
  (List.range n).flatMap fun k => receiveFrame fun i => s.drawAt (8 * k + i)

/-- Command frames of several bytes. -/
def commandFrames (vs : List Byte) : List Event := vs.flatMap commandFrame

/-! ### Event lists of the operations -/

/-- HANDSHAKE, stages S1 to S3 (42_entry_handshake.md R120, R122). -/
def wakeEvents : List Event := [.cfg, .set .clk, .set .din, .set .msel, .wait 500]

/-- HANDSHAKE, stages S9 and S10. -/
def preModeEvents : List Event := [.wait 8, .clr .msel, .clr .clk, .wait 2]

/-- HANDSHAKE, stage S12. -/
def raiseClkEvents : List Event := [.set .clk, .wait 2]

/-- HANDSHAKE, stage by stage (R120, R122). -/
def handshakeTrace : List Event :=
  List.flatten [wakeEvents, lowPulseEvents .clk 1 50,
    repeated 165 (lowPulseEvents .msel 2 2), repeated 105 (lowPulseEvents .din 2 2),
    repeated 90 (lowPulseEvents .clk 2 2), repeated 25600 (lowPulseEvents .msel 2 2),
    preModeEvents, modeFrame 0x96, raiseClkEvents, repeated 25600 (lowPulseEvents .clk 2 2),
    highPulseEvents .msel 5 5]

/-- RESET by the mode it starts from (43_mode_switch.md R131 to R133). -/
def resetTrace : Mode → List Event
  | .uninitialized => []
  | .modeReset => []
  | .icpMode => [.set .clk, .set .msel, .wait 2, .clr .msel, .wait 2]
  | .altMode => [.set .msel] ++ repeated 35 (lowPulseEvents .clk 2 2) ++ [.clr .msel]

/-- PING (44_probes.md R151). -/
def pingTrace : List Event := commandFrame 0x49 ++ commandFrame 0xFF

/-- CLK lowered and the step time, before a mode byte (R135). -/
def lowerClkEvents : List Event := [.clr .clk, .wait 2]

/-- The events between the mode byte 0x96 and the ping (R136). -/
def icpEntryEvents : List Event := [.wait 800, .set .clk, .wait 2]

/-- The entry into IcpMode from ModeReset (R135, R136). -/
def enterIcpTrace : List Event := List.flatten [lowerClkEvents, modeFrame 0x96, icpEntryEvents, pingTrace]

/-- The entry into AltMode from ModeReset (R135, R138). -/
def enterAltTrace : List Event :=
  List.flatten [lowerClkEvents, modeFrame 0xA5, [.set .msel], repeated 6 pulseEvents, [.clr .msel],
    repeated 2 pulseEvents]

/-- What CHECK sends (44_probes.md R150). -/
def checkSends : List Event := .clr .clk :: commandFrames [0x40, 0x69, 0x41, 0xFF, 0xFF, 0x43]

/-- The command frames of READFLASH after the ping (45_flash_read.md R160, phases P3 to P6). -/
def readflashSends (c : ChipConfig) (addr : Addr24) (cb : Bool) : List Event :=
  List.flatten [if c.extraPreamble then commandFrames [0x46, 0xFE, 0xFF] else [],
    commandFrames [0x40, addr.extractLsb' 0 8, 0x41, addr.extractLsb' 8 8],
    if c.addrHighField then commandFrames [0x4C, addr.extractLsb' 16 8] else [],
    commandFrame (if cb then 0x4A else 0x44)]

end Sys2Proof.Machine
end

