-- ==== Sys2Proof/Safety.lean ====
section
/-! DEFINITION. What a safe run is, in the terms the statements use: an idle engine, a run without a refusal, the
invariant every step keeps, and the line levels between operations. -/

namespace Sys2Proof.Machine

/-- No operation runs: `BUSY == 0` and `SEQ` is `Idle` (10_state.md R23). -/
def State.Idle (s : State) : Prop := s.busy = false ∧ s.seq = []

/-- No command has been refused since hardware reset (60_exceptions.md R182). -/
def State.Unrefused (s : State) : Prop := s.refusal = none

/-- The wire values some operation emits: all but `ICP_WRITE` (30_encoding.md R80 to R89). -/
def emittedWires : List Byte :=
  [ICP_ADDRESS_7B0, ICP_ADDRESS_15B8, ICP_ADDRESS_23B16, ICP_READ, ICP_READ_CUSTOM_BLOCK, MODE_ICP, MODE_ALT,
    OP_PROBE, OP_PING, OP_PRE]

/-- A sequencer action that some operation holds: an opcode is one of the emitted ones (R84, R91), an internal
SWITCHMODE has a legal target (43_mode_switch.md R137). -/
def Item.sanctioned : Item → Bool
  | .wire b => emittedWires.contains b
  | .callSwitch t => legalTarget t
  | _ => true

/-- Does the action drive a line, or lead to one that does, without a check of its own? -/
def Item.needsLines : Item → Bool
  | .cfg | .wait _ | .setBitn _ | .clearAcc | .loadLoop _ => false
  | .opHandshake | .opReset | .opSwitch | .opCheck | .opPing | .opReadflash | .refuse _ => false
  | _ => true

/-- Every action that drives a line comes when the outputs are configured (40_line_events.md R102): `oe` is the
direction flag before the first action of the list. -/
def linesReady : Bool → List Item → Bool
  | _, [] => true
  | _, .cfg :: rest => linesReady true rest
  | oe, it :: rest => (oe || !it.needsLines) && linesReady oe rest

/-- The invariant of the machine. -/
structure Inv (s : State) : Prop where
  /-- `SEQ` is `Idle` exactly when `BUSY == 0` (10_state.md R23). -/
  busy_seq : s.busy = !s.seq.isEmpty
  /-- `ERR` and the mark of a refusal are in step (60_exceptions.md R182). -/
  err_mark : s.err = s.refusal.isSome
  /-- The read buffer keeps its canonical form and its sixteen addresses (10_state.md R25). -/
  rbuf_wf : s.rbuf.wf = true
  /-- What is left to do is what some operation does. -/
  seq_sanctioned : s.seq.all Item.sanctioned = true
  /-- An initialised engine drives its lines (10_state.md R38, 40_line_events.md R102). -/
  initialized_driven : s.mode ≠ .uninitialized → s.oe = true
  /-- No line is driven before the outputs are configured (R102). -/
  lines_ready : linesReady s.oe s.seq = true

/-- The line levels between operations (10_state.md R38): nothing driven while Uninitialized; MSEL low once
initialised; CLK and DIN low in IcpMode; CLK low in AltMode. -/
structure LevelsFit (s : State) : Prop where
  undriven : s.mode = .uninitialized → s.oe = false
  driven : s.mode ≠ .uninitialized → s.oe = true ∧ s.msel = false
  icp : s.mode = .icpMode → s.clk = false ∧ s.din = false
  alt : s.mode = .altMode → s.clk = false

/-- The rows of the table of line levels between operations (10_state.md R38), with what the table says of the way
the mode was reached. -/
inductive LevelRow where
  /-- Uninitialized: no line driven. -/
  | undriven
  /-- ModeReset, reached by HANDSHAKE. -/
  | resetByHandshake
  /-- ModeReset, reached by RESET, which left DIN at `din`. -/
  | resetByReset (din : Bool)
  /-- IcpMode. -/
  | icp
  /-- AltMode, just entered. -/
  | altEntered
  /-- The initialised mode `m`, after CHECK or PING. -/
  | probed (m : Mode)
deriving DecidableEq, Repr

/-- The mode of a row and the levels (CLK, DIN) it gives; `none` where nothing is driven. -/
def LevelRow.levels : LevelRow → Mode × Option (Bool × Bool)
  | .undriven => (.uninitialized, none)
  | .resetByHandshake => (.modeReset, some (true, false))
  | .resetByReset din => (.modeReset, some (true, din))
  | .icp => (.icpMode, some (false, false))
  | .altEntered => (.altMode, some (false, true))
  | .probed m => (m, some (false, false))

/-- The state is as the row says; MSEL is low in every row that drives the lines. -/
def LevelRow.fits (r : LevelRow) (s : State) : Prop :=
  s.mode = r.levels.1 ∧
    match r.levels.2 with
    | none => s.oe = false
    | some (clk, din) => s.mode ≠ .uninitialized ∧ s.oe = true ∧ s.clk = clk ∧ s.din = din ∧ s.msel = false

/-- The row after a host command, read from the table: a command refused or without effect leaves the row; RESET
leaves DIN as it finds it. -/
def LevelRow.after (r : LevelRow) (i : Instr) : LevelRow :=
  match i, r with
  | .handshake, _ => .resetByHandshake
  | _, .undriven => .undriven
  | .reset, .icp => .resetByReset false
  | .reset, .altEntered => .resetByReset true
  | .reset, .probed m => if m = .modeReset then .probed m else .resetByReset false
  | .switchmode t, r =>
    if t = 0x96 ∧ r.levels.1 ≠ .icpMode then .icp
    else if t = 0xA5 ∧ r.levels.1 ≠ .altMode then .altEntered
    else r
  | .check, r => .probed r.levels.1
  | .ping, r => .probed r.levels.1
  | .readflash _ _, _ => .icp
  | _, r => r

/-- The same trace when the sampled values are forgotten. -/
def sameShape (s t : State) : Prop := s.trace.map Event.shape = t.trace.map Event.shape

end Sys2Proof.Machine
end

