-- ==== Sys2Proof/WellFormed.lean ====
section
/-! DEFINITION. Which instructions are well formed. The types of the operands fix their widths; the one check
left is the operand of SWITCHMODE (43_mode_switch.md R137). An ill-formed SWITCHMODE still decodes and runs: it
is refused with reason BadTarget. -/

namespace Sys2Proof

/-- R137: only 0x96 and 0xA5 name a mode that SWITCHMODE can enter; every other instruction is well formed. -/
def Instr.wellFormed : Instr → Bool
  | .switchmode tgt => Machine.legalTarget tgt
  | .handshake | .reset | .check | .ping | .readflash _ _ => true
  | .icpAddress7b0 | .icpAddress15b8 | .icpAddress23b16 | .icpRead | .icpWrite | .icpReadCustomBlock => true
  | .modeIcp | .modeAlt | .opProbe | .opPing | .opPre => true

end Sys2Proof
end

