-- ==== Sys2Proof/Certificates/Slice0/Obligations.lean ====
section
/-! DEFINITION. The statements for the provers. A statement gives the next state as an equation
`t = { s with … }`: every field not listed there is unchanged (all of memory among them), and a listed field whose
value is `t.<field>` is one the instruction may write and the statement does not describe. -/

open Sys2Proof Sys2Proof.Machine

/-! ### Encoding -/

/-- No bit of an encoding is dropped: every instruction, with every operand at every value, decodes back from its
code (30_encoding.md, sections 2 and 4). -/
def Obligations.DecodeOfEncodeIsTheInstruction : Prop :=
  ∀ i : Instr, decode (encode i) = .ok i

/-- The other direction for command words: a word that decodes differs from the encoding only in bits its
operation ignores (30_encoding.md section 2, "Command word format"). -/
def Obligations.EncodeOfDecodedCommandKeepsItsUsedBits : Prop :=
  ∀ (w : Word) (i : Instr), decode (.command w) = .ok i → encode i = .command (w &&& usedBits i)

/-- A command word selects an operation exactly when its `OP`, bits 31:28, is 1 to 6, and which operation each value
selects, with its operands from their bits; every other word is rejected by name (30_encoding.md section 2,
"Command word format" and "Reserved and illegal command encodings"). -/
def Obligations.CommandWordsDecodeExactlyForOpOneToSix : Prop :=
  ∀ w : Word,
    (w.extractLsb' 28 4 = 1 → decode (.command w) = .ok .handshake) ∧
    (w.extractLsb' 28 4 = 2 → decode (.command w) = .ok .reset) ∧
    (w.extractLsb' 28 4 = 3 → decode (.command w) = .ok (.switchmode (w.extractLsb' 0 8))) ∧
    (w.extractLsb' 28 4 = 4 → decode (.command w) = .ok .check) ∧
    (w.extractLsb' 28 4 = 5 → decode (.command w) = .ok .ping) ∧
    (w.extractLsb' 28 4 = 6 → decode (.command w) = .ok (.readflash (w.extractLsb' 0 24) (w.getLsbD 24))) ∧
    ((w.extractLsb' 28 4).toNat = 0 ∨ 7 ≤ (w.extractLsb' 28 4).toNat →
      decode (.command w) = .error (.reservedOp (w.extractLsb' 28 4)))

/-- The wire values are exactly the eleven bytes of the table, each decoding to the instruction of its row and to no
other; every other byte is rejected by name (30_encoding.md section 4). -/
def Obligations.WireValuesAreExactlyElevenBytes : Prop :=
  let table : List (Byte × Instr) :=
    [(0x40, .icpAddress7b0), (0x41, .icpAddress15b8), (0x4C, .icpAddress23b16), (0x44, .icpRead), (0x42, .icpWrite),
      (0x4A, .icpReadCustomBlock), (0x96, .modeIcp), (0xA5, .modeAlt), (0x43, .opProbe), (0x49, .opPing),
      (0x46, .opPre)]
  (∀ (b : Byte) (i : Instr), decode (.wire b) = .ok i ↔ (b, i) ∈ table) ∧
    ∀ b : Byte, b ∉ table.map Prod.fst → decode (.wire b) = .error (.notAWireValue b)

/-- Words written out from the spec's encodings decode to the instructions they stand for: one of each command, with
ignored bits set in every one, and two wire values, one of each frame (30_encoding.md sections 2 and 4). -/
def Obligations.WordsFromTheSpecDecode : Prop :=
  decode (.command 0b0001_1110_0000_0000_0000_0000_0000_0000) = .ok .handshake ∧
  decode (.command 0b0010_1111_1111_1111_1111_1111_1111_1111) = .ok .reset ∧
  decode (.command 0b0011_1111_1111_1111_1111_1111_1001_0110) = .ok (.switchmode 0x96) ∧
  decode (.command 0b0100_0001_1000_0000_0000_0000_0110_1001) = .ok .check ∧
  decode (.command 0b0101_1010_0000_0000_0000_0001_0000_0001) = .ok .ping ∧
  decode (.command 0b0110_1111_0001_0010_0011_0100_0101_0000) = .ok (.readflash 0x123450 true) ∧
  decode (.wire 0b0100_1100) = .ok .icpAddress23b16 ∧
  decode (.wire 0b1010_0101) = .ok .modeAlt

/-! ### The step -/

/-- A command word at the port of an idle engine: the step latches the operands and runs the decoded instruction
to its end; where the command is refused, the step changes `ERR` and nothing else, the latches among them
(30_encoding.md section 2; 60_exceptions.md sections 1 and 3; that a refused command loads no latch is assumption
log, entry 11, the mark entry 24). -/
def Obligations.CallStepRunsTheDecodedCommand : Prop :=
  ∀ (s : State) (w : Word) (rest : List Input) (i : Instr),
    s.busy = false → s.inputs = .call w :: rest → decode (.command w) = .ok i →
    ((i = .handshake ∨ s.mode ≠ .uninitialized) → (∀ tgt, i = .switchmode tgt → tgt = 0x96 ∨ tgt = 0xA5) →
      step s = exec i { s with
        inputs := rest, addr := w.extractLsb' 0 24, cb := w.getLsbD 24, tgt := w.extractLsb' 0 8 }) ∧
    (∀ tgt, i = .switchmode tgt → tgt ≠ 0x96 → tgt ≠ 0xA5 →
      step s = .next { s with inputs := rest, err := true, refusal := some .badTarget }) ∧
    (s.mode = .uninitialized → i ≠ .handshake → (∀ tgt, i = .switchmode tgt → tgt = 0x96 ∨ tgt = 0xA5) →
      step s = .next { s with inputs := rest, err := true, refusal := some .notInitialized })

/-- A frame step, with the outside quiet for one frame: a wire value at the head of the sequencer is decoded and run
as an instruction, a data byte is sent in a command frame, a byte is received in a receive frame, and any other
action, or a byte that is no wire value, is one action of the sequencer; `BUSY` falls if nothing is left (the
model's own grain: assumption log, entries 9 and 13). -/
def Obligations.FrameStepRunsTheDecodedWireValue : Prop :=
  ∀ (s : State) (rest : List Input), s.busy = true → s.inputs = .frame :: rest →
    (∀ (b : Byte) (left : List Item) (i : Instr), s.seq = .wire b :: left → decode (.wire b) = .ok i →
      ∃ t, exec i { s with inputs := rest, seq := left } = .next t ∧
        step s = .next (if t.seq = [] then { t with busy := false } else t)) ∧
    (∀ (v : Byte) (left : List Item), s.seq = .data v :: left →
      ∃ t, t = sendByteMSBFirst v { s with inputs := rest, seq := left } ∧
        step s = .next (if t.seq = [] then { t with busy := false } else t)) ∧
    (∀ left : List Item, s.seq = .receive :: left →
      ∃ t, t = receiveByte { s with inputs := rest, seq := left } ∧
        step s = .next (if t.seq = [] then { t with busy := false } else t)) ∧
    ((∀ b i, s.seq.head? = some (.wire b) → decode (.wire b) ≠ .ok i) →
      (∀ v, s.seq.head? ≠ some (.data v)) → s.seq.head? ≠ some .receive →
      step s = .next (advance { s with inputs := rest }))

/-- A command word with a reserved `OP` changes `ERR` and nothing else of the engine, in both forms of the write (the
refusal is the spec's decision D7). That the word written by a host that goes on is refused within the step that takes
it, with no latch loaded and `BUSY` never raised, is the model's choice, assumption log, entry 11; the mark is the
model's too, entry 24. -/
def Obligations.ReservedOpSetsErrAndNothingElse : Prop :=
  ∀ (s : State) (w : Word) (rest : List Input),
    s.busy = false → (s.inputs = .call w :: rest ∨ s.inputs = .write 0 w :: rest) →
    ((w.extractLsb' 28 4).toNat = 0 ∨ 7 ≤ (w.extractLsb' 28 4).toNat) →
    step s = .next { s with inputs := rest, err := true, refusal := some .reservedOp }

/-- While `BUSY == 1` the operation goes on by one action of the sequencer in each step in which the outside is quiet;
a write to `CMD` waits meanwhile: it stays at the port, and the step is the one the engine takes with nothing at the
port (10_state.md section 8; decision D3; one action a step is the model's grain, assumption log, entries 9 and
10). -/
def Obligations.CommandWriteWaitsAtThePortWhileBusy : Prop :=
  ∀ s : State, s.busy = true →
    (s.inputs = [] → step s = .next (advance s)) ∧
    (∀ rest, s.inputs = .tick :: rest → step s = .next (advance { s with inputs := rest })) ∧
    (∀ (w : Word) (rest : List Input), s.inputs = .call w :: rest ∨ s.inputs = .write 0 w :: rest →
      ∃ t, step { s with inputs := [] } = .next t ∧ step s = .next { t with inputs := s.inputs })

/-- Acceptance of a command by a host that goes on: `ADDR`, `CB` and `TGT` are latched from their bits, `BUSY`
rises, the sequencer stands at the operation `OP` selects, and no event is emitted yet. Where the command is refused,
`BUSY` rises too, and the next action ends the command: `BUSY` is 0 again, `ERR` is 1 and nothing else has changed, the
latches among them (30_encoding.md section 2; 60_exceptions.md sections 1 and 3; decision D2; that a refused command
loads no latch and is refused by an action of its own is assumption log, entry 11, the mark entry 24). -/
def Obligations.AcceptanceLatchesTheOperandsAndRaisesBusy : Prop :=
  ∀ (s : State) (w : Word) (rest : List Input) (i : Instr),
    s.busy = false → s.inputs = .write 0 w :: rest → decode (.command w) = .ok i →
    ((i = .handshake ∨ s.mode ≠ .uninitialized) → (∀ tgt, i = .switchmode tgt → tgt = 0x96 ∨ tgt = 0xA5) →
      step s = .next { s with
        inputs := rest, addr := w.extractLsb' 0 24, cb := w.getLsbD 24, tgt := w.extractLsb' 0 8
        busy := true, seq := [Item.start i] }) ∧
    (∀ tgt, i = .switchmode tgt → tgt ≠ 0x96 → tgt ≠ 0xA5 →
      ∃ t, step s = .next t ∧ t.seq ≠ [] ∧ t = { s with inputs := rest, busy := true, seq := t.seq } ∧
        advance t = { s with inputs := rest, seq := [], err := true, refusal := some .badTarget }) ∧
    (s.mode = .uninitialized → i ≠ .handshake → (∀ tgt, i = .switchmode tgt → tgt = 0x96 ∨ tgt = 0xA5) →
      ∃ t, step s = .next t ∧ t.seq ≠ [] ∧ t = { s with inputs := rest, busy := true, seq := t.seq } ∧
        advance t = { s with inputs := rest, seq := [], err := true, refusal := some .notInitialized })

/-- The grains of a step agree. From the step that accepts any command word written to `CMD`, the sequencer, one action
at a time, is busy until it has reached exactly the state that one step gives to the host that waits for the command;
and a frame step, whatever stands at the head of the sequencer, is a whole number of such actions, one at least, with
the engine busy before each (10_state.md section 3; 20_memory.md section 4; the grains are the model's, assumption log, entries 9 and 10). -/
def Obligations.SequencerRunsToTheResultOfTheInstruction : Prop :=
  (∀ (s : State) (w : Word) (rest : List Input), s.Idle →
    ∃ (n : Nat) (t a : State), step { s with inputs := .call w :: rest } = .next t ∧
      step { s with inputs := .write 0 w :: rest } = .next a ∧
      advanceN n a = t ∧ ∀ k, k < n → (advanceN k a).busy = true) ∧
  (∀ (s : State) (rest : List Input), s.busy = true → s.inputs = .frame :: rest →
    ∃ n, step s = .next (advanceN (n + 1) { s with inputs := rest }) ∧
      ∀ k, k ≤ n → (advanceN k { s with inputs := rest }).busy = true)

/-- `SEQ` advances at most one line event at a time, and an event once in the trace stays (10_state.md section 3). -/
def Obligations.SequencerEmitsAtMostOneEventPerAction : Prop :=
  ∀ s : State, ∃ es, (advance s).trace = s.trace ++ es ∧ es.length ≤ 1

/-- The trace only grows: every step but a hardware reset keeps what is in it (10_state.md section 10; the trace
is a device of the model, decision D1). -/
def Obligations.TraceOnlyGrowsWithoutHardwareReset : Prop :=
  ∀ s t : State, step s = .next t → s.inputs.head? ≠ some .hardReset → ∃ es, t.trace = s.trace ++ es

/-- `ERR` is sticky: only hardware reset clears it (60_exceptions.md section 1; decision D23). -/
def Obligations.ErrIsClearedByHardwareResetOnly : Prop :=
  ∀ s t : State, step s = .next t → s.inputs.head? ≠ some .hardReset → s.err = true → t.err = true

/-- The configuration never changes while the engine exists, hardware reset included (10_state.md section 10; the
field is the model's choice, assumption log, entry 12). -/
def Obligations.ConfigurationNeverChanges : Prop :=
  ∀ s t : State, step s = .next t → t.cfg = s.cfg

/-- Hardware reset at any moment, busy or idle: the values of 10_state.md section 12, an empty trace, no line
driven (decisions D22 and D30). -/
def Obligations.HardwareResetEndsAnyOperation : Prop :=
  ∀ (s : State) (rest : List Input), s.inputs = .hardReset :: rest →
    ∃ t, step s = .next t ∧ t.mode = .uninitialized ∧ t.oe = false ∧ t.busy = false ∧ t.err = false ∧
      t.seq = [] ∧ t.trace = [] ∧ t.rbufValid = false ∧ t.chkValid = false ∧ t.refusal = none ∧
      (∀ l, t.pin l = none) ∧ t.cfg = s.cfg ∧ t.inputs = rest

/-- The state right after hardware reset has the values the spec gives (10_state.md section 12). -/
def Obligations.ResetStateHasTheSpecValues : Prop :=
  State.reset.mode = .uninitialized ∧ State.reset.oe = false ∧ State.reset.busy = false ∧
  State.reset.err = false ∧ State.reset.seq = [] ∧ State.reset.trace = [] ∧ ∀ l, State.reset.pin l = none

/-- An idle engine with nothing at its port emits nothing and holds its lines (40_line_events.md section end;
70_reset_and_hazards.md section 1). -/
def Obligations.IdleEngineChangesNothing : Prop :=
  ∀ s : State, s.busy = false → s.inputs = [] → step s = .next s

/-- The engine raises no exception of any kind: no instruction has a failing outcome (60_exceptions.md section 1). -/
def Obligations.EveryInstructionGoesOn : Prop :=
  ∀ (i : Instr) (s : State), ∃ t, exec i s = .next t

/-- A step stops exactly where the host accesses a register number above 31, which the window does not have: there it
faults, whether the engine is busy or not, and everywhere else there is a next state (20_memory.md section 1;
assumption log, entry 6). -/
def Obligations.StepStopsOnlyOutsideTheWindow : Prop :=
  (∀ (s : State) (n : Nat), 32 ≤ n →
    (s.inputs.head? = some (.read n) ∨ ∃ w, s.inputs.head? = some (.write n w)) →
    step s = .fault (.outsideWindow n)) ∧
  (∀ s : State,
    (∀ n, s.inputs.head? = some (.read n) ∨ (∃ w, s.inputs.head? = some (.write n w)) → n < 32) →
    ∃ t, step s = .next t)

/-- The invariant holds right after hardware reset. -/
def Obligations.InvariantHoldsAtReset : Prop := Inv State.reset

/-- The invariant that every step keeps: `SEQ` idle exactly when `BUSY == 0`; `ERR` in step with the mark; the
read buffer in its canonical form; the sequencer holds what some operation does, so never the opcode `ICP_WRITE`
and never a mode byte but 0x96 and 0xA5; an initialised engine drives its lines; no action drives a line before
the outputs are configured (10_state.md, 30_encoding.md section 4, 40_line_events.md, 60_exceptions.md). -/
def Obligations.InvariantIsKeptByEveryStep : Prop :=
  ∀ s t : State, Inv s → step s = .next t → Inv t

/-! ### The register window -/

/-- A read of the window has no side effect on any register of the engine, busy or idle (10_state.md section 8). -/
def Obligations.WindowReadHasNoSideEffect : Prop :=
  ∀ (s : State) (n : Nat) (rest : List Input), n < 32 → s.inputs = .read n :: rest →
    ∃ t, step s = .next t ∧
      t = { s with inputs := rest, readData := t.readData, freeReads := s.freeReads + 1 }

/-- STATUS: bit 0 is `BUSY`, bit 2 is `ERR`, bits 7:3 and 31:16 are 0, always; bit 1 is `CHK` once a CHECK has
completed and bits 15:8 are the mode's number, while `BUSY == 0` (10_state.md section 8; the window is decision
D2, the number of Uninitialized D4). -/
def Obligations.StatusReadGivesItsFields : Prop :=
  ∀ (s : State) (rest : List Input), s.inputs = .read 1 :: rest →
    ∃ t, step s = .next t ∧ t.readData.getLsbD 0 = s.busy ∧ t.readData.getLsbD 2 = s.err ∧
      t.readData.extractLsb' 3 5 = 0 ∧ t.readData.extractLsb' 16 16 = 0 ∧
      (s.busy = false → s.chkValid = true → t.readData.getLsbD 1 = s.chk) ∧
      (s.busy = false → t.readData.extractLsb' 8 8 =
        match s.mode with
        | .uninitialized => 0x00
        | .modeReset => 0x01
        | .icpMode => 0x96
        | .altMode => 0xA5)

/-- CONFIG, the reserved numbers 3 to 15, and the read buffer once a READFLASH has completed (10_state.md section
8; the window is decision D2). -/
def Obligations.ConfigReservedAndBufferReads : Prop :=
  ∀ (s : State) (n : Nat) (rest : List Input), s.inputs = .read n :: rest →
    (n = 2 → ∃ t, step s = .next t ∧ t.readData.getLsbD 0 = s.cfg.extraPreamble ∧
      t.readData.getLsbD 1 = s.cfg.addrHighField ∧ t.readData.extractLsb' 2 30 = 0) ∧
    (3 ≤ n → n ≤ 15 → ∃ t, step s = .next t ∧ t.readData = 0) ∧
    (16 ≤ n → n ≤ 31 → ∃ t, step s = .next t ∧ t.readData.extractLsb' 8 24 = 0 ∧
      (s.busy = false → s.rbufValid = true → t.readData.extractLsb' 0 8 = s.rbuf.read (n - 16)))

/-- A write to a register other than `CMD` is ignored, busy or idle (10_state.md section 8; for STATUS and CONFIG
the model reads "read only" so, assumption log, entry 5). -/
def Obligations.WritesOutsideCmdAreIgnored : Prop :=
  ∀ (s : State) (n : Nat) (w : Word) (rest : List Input), 1 ≤ n → n < 32 → s.inputs = .write n w :: rest →
    step s = .next { s with inputs := rest }

/-! ### Frames -/

/-- The command frame, for all 8-bit values: exactly nine clock pulses with DIN at bits 7..0 of the value during
pulses 1 to 8 and low during pulse 9. -/
def Obligations.CommandFrameSlots : Prop :=
  ∀ (v : Byte) (s : State), ∃ es, (sendByteMSBFirst v s).trace = s.trace ++ es ∧ pulseCount es = 9 ∧
    dinAtPulses s.din es =
      [v.getLsbD 7, v.getLsbD 6, v.getLsbD 5, v.getLsbD 4, v.getLsbD 3, v.getLsbD 2, v.getLsbD 1, v.getLsbD 0, false]

/-- The mode frame, for all 8-bit values: ten clock pulses, DIN driven to bits 7..0 for pulses 1 to 8 and not driven
again, so still at bit 0 during pulses 9 and 10; low for 0x96 and high for 0xA5 (30_encoding.md section 3; that the
two trailing pulses are ordinary ones with no DIN event is decision D14, the shape of a pulse D10). -/
def Obligations.ModeFrameSlots : Prop :=
  ∀ (v : Byte) (s : State), ∃ es, (sendModeByte v s).trace = s.trace ++ es ∧ pulseCount es = 10 ∧
    es = dataSlots v ++ pulseEvents ++ pulseEvents ∧
    dinAtPulses s.din es =
      [v.getLsbD 7, v.getLsbD 6, v.getLsbD 5, v.getLsbD 4, v.getLsbD 3, v.getLsbD 2, v.getLsbD 1, v.getLsbD 0,
        v.getLsbD 0, v.getLsbD 0] ∧
    (sendModeByte v s).din = v.getLsbD 0 ∧
    (v = 0x96 → (sendModeByte v s).din = false) ∧ (v = 0xA5 → (sendModeByte v s).din = true)

/-- The receive frame: nine clock pulses with DIN low in all, driven once before the first; one sample after each
of the first eight pulses, the first into bit 0 and the eighth into bit 7; nothing sampled after the ninth. -/
def Obligations.ReceiveFrameSlots : Prop :=
  ∀ s : State, ∃ es, (receiveByte s).trace = s.trace ++ es ∧ pulseCount es = 9 ∧
    dinAtPulses s.din es = List.replicate 9 false ∧
    es = .clr .din :: ((List.range 8).flatMap fun i => pulseEvents ++ [.smp (s.drawAt i)]) ++ pulseEvents ∧
    ∀ i, i < 8 → (receiveByte s).acc.getLsbD i = s.drawAt i

/-- The sizes of the three frames for every value: events, samples, minimum time (41_transfer_primitives.md, the
summary at its end, derived there). -/
def Obligations.FrameSizes : Prop :=
  ∀ (v : Byte) (s : State),
    (∃ es, (sendByteMSBFirst v s).trace = s.trace ++ es ∧ es.length = 45 ∧ samplesOf es = [] ∧ waitSum es = 18) ∧
    (∃ es, (sendModeByte v s).trace = s.trace ++ es ∧ es.length = 48 ∧ samplesOf es = [] ∧ waitSum es = 20) ∧
    (∃ es, (receiveByte s).trace = s.trace ++ es ∧ es.length = 45 ∧ (samplesOf es).length = 8 ∧ waitSum es = 18)

/-- The bit-order asymmetry (41_transfer_primitives.md, derived there): a byte sent MSB first comes back as itself
from a responder that replays the bits in the reverse of the order it got them, and bit-reversed from one that
replays them in the order received. -/
def Obligations.SentByteComesBackThroughAReversingResponder : Prop :=
  ∀ (v : Byte) (s : State) (rest : List Bool),
    (s.dout = [v.getLsbD 0, v.getLsbD 1, v.getLsbD 2, v.getLsbD 3, v.getLsbD 4, v.getLsbD 5, v.getLsbD 6,
        v.getLsbD 7] ++ rest →
      (receiveByte (sendByteMSBFirst v s)).acc = v) ∧
    (s.dout = [v.getLsbD 7, v.getLsbD 6, v.getLsbD 5, v.getLsbD 4, v.getLsbD 3, v.getLsbD 2, v.getLsbD 1,
        v.getLsbD 0] ++ rest →
      (receiveByte (sendByteMSBFirst v s)).acc = v.reverse)

/-- Each of the nine wire values of the command-frame rows runs as the command frame of its byte, from every
state; CLK and DIN end low (30_encoding.md sections 3 and 4). For `ICP_WRITE` this is the frame its row names,
which no operation emits (assumption log, entry 13). -/
def Obligations.CommandFrameWireValuesRun : Prop :=
  ∀ (i : Instr) (v : Byte) (s : State),
    (i, v) ∈ ([(.icpAddress7b0, 0x40), (.icpAddress15b8, 0x41), (.icpAddress23b16, 0x4C), (.icpRead, 0x44),
      (.icpWrite, 0x42), (.icpReadCustomBlock, 0x4A), (.opProbe, 0x43), (.opPing, 0x49), (.opPre, 0x46)]
        : List (Instr × Byte)) →
    ∃ t, exec i s = .next t ∧ t.trace = s.trace ++ commandFrame v ∧
      t = { s with clk := false, din := false, bitn := t.bitn, events := t.events }

/-- The two mode values run as the mode frame of their byte, from every state; CLK ends low and DIN at bit 0 of
the byte (30_encoding.md sections 3 and 4). -/
def Obligations.ModeFrameWireValuesRun : Prop :=
  ∀ s : State,
    (∃ t, exec .modeIcp s = .next t ∧ t.trace = s.trace ++ modeFrame 0x96 ∧
      t = { s with clk := false, din := false, bitn := t.bitn, events := t.events }) ∧
    (∃ t, exec .modeAlt s = .next t ∧ t.trace = s.trace ++ modeFrame 0xA5 ∧
      t = { s with clk := false, din := true, bitn := t.bitn, events := t.events })

/-! ### HANDSHAKE -/

/-- HANDSHAKE runs from every state, in every mode: the whole sequence of 42_entry_handshake.md section start, mode
ModeReset, the outputs driven, CLK high, DIN and MSEL low; `CHK`, `RBUF`, the latches and all else keep what they
held (the idle pattern is decision D9, the order of S10 D12). -/
def Obligations.HandshakeRunsTheEntrySequence : Prop :=
  ∀ s : State, ∃ t, exec .handshake s = .next t ∧ t.trace = s.trace ++ handshakeTrace ∧
    t = { s with
      mode := .modeReset, oe := true, clk := true, din := false, msel := false
      bitn := t.bitn, loop := t.loop, freeLatches := t.freeLatches, events := t.events }

/-- The sizes of HANDSHAKE: 206307 events, at least 206833 microseconds, 10 clock pulses, no sample, whatever the
state (42_entry_handshake.md, the stage table, derived there). -/
def Obligations.HandshakeSizes : Prop :=
  ∀ s t : State, exec .handshake s = .next t →
    ∃ es, t.trace = s.trace ++ es ∧ es.length = 206307 ∧ waitSum es = 206833 ∧ pulseCount es = 10 ∧
      samplesOf es = []

/-! ### RESET and SWITCHMODE -/

/-- RESET with `mode == ModeReset` is a no-op: no event, no state written, no refusal; written to `CMD` it is
accepted, `BUSY` rises and falls, and nothing else happens but the latches of the acceptance; two RESET commands in
a row emit the events of one (43_mode_switch.md section 1; the latches are 30_encoding.md section 2, decision D2,
and assumption log, entry 11; the sequencer's actions are the model's, entries 9 and 10). -/
def Obligations.ResetInModeResetDoesNothing : Prop :=
  (∀ s : State, s.mode = .modeReset → exec .reset s = .next s) ∧
  (∀ (s : State) (w : Word) (rest : List Input),
    s.Idle → s.mode = .modeReset → s.inputs = .write 0 w :: rest → decode (.command w) = .ok .reset →
    ∃ t, step s = .next t ∧ t.busy = true ∧ ∃ n, advanceN n t = { s with
      inputs := rest, addr := w.extractLsb' 0 24, cb := w.getLsbD 24, tgt := w.extractLsb' 0 8 }) ∧
  (∀ s t : State, s.mode ≠ .uninitialized → exec .reset s = .next t → exec .reset t = .next t)

/-- RESET from every initialised mode: the branch of the mode, event by event, then ModeReset with CLK high and
MSEL low (unchanged from ModeReset itself); DIN and all else are not touched (43_mode_switch.md section 1; the
pulse reading is decision D11). -/
def Obligations.ResetRunsTheBranchOfTheMode : Prop :=
  ∀ s : State, s.mode ≠ .uninitialized →
    ∃ t, exec .reset s = .next t ∧ t.trace = s.trace ++ resetTrace s.mode ∧
      t = { s with
        mode := .modeReset
        clk := if s.mode = .modeReset then s.clk else true
        msel := if s.mode = .modeReset then s.msel else false
        loop := t.loop, events := t.events }

/-- SWITCHMODE is idempotent: with `mode` already at the target, and so also right after a SWITCHMODE that was not
refused, it emits no event, writes no state and sets no `ERR`. -/
def Obligations.SwitchmodeIsIdempotent : Prop :=
  (∀ s : State, s.mode = .icpMode → exec (.switchmode 0x96) s = .next s) ∧
  (∀ s : State, s.mode = .altMode → exec (.switchmode 0xA5) s = .next s) ∧
  (∀ (s t : State) (tgt : Byte), s.mode ≠ .uninitialized → (tgt = 0x96 ∨ tgt = 0xA5) →
    exec (.switchmode tgt) s = .next t → exec (.switchmode tgt) t = .next t)

/-- SWITCHMODE from ModeReset: the entry into IcpMode with its ping, or the documented prefix of the entry into
AltMode; MSEL is not touched on the way to IcpMode (43_mode_switch.md section 2). -/
def Obligations.SwitchmodeEntersFromModeReset : Prop :=
  ∀ s : State, s.mode = .modeReset →
    (∃ t, exec (.switchmode 0x96) s = .next t ∧ t.trace = s.trace ++ enterIcpTrace ∧
      t = { s with mode := .icpMode, clk := false, din := false, bitn := t.bitn, events := t.events }) ∧
    (∃ t, exec (.switchmode 0xA5) s = .next t ∧ t.trace = s.trace ++ enterAltTrace ∧
      t = { s with
        mode := .altMode, clk := false, din := true, msel := false
        bitn := t.bitn, loop := t.loop, events := t.events })

/-- Between the two active modes SWITCHMODE goes through RESET: the branch of the mode left, then the entry
(43_mode_switch.md section 2). -/
def Obligations.SwitchmodeBetweenActiveModesGoesThroughReset : Prop :=
  ∀ s : State,
    (s.mode = .altMode → ∃ t, exec (.switchmode 0x96) s = .next t ∧
      t.trace = s.trace ++ resetTrace .altMode ++ enterIcpTrace ∧
      t = { s with
        mode := .icpMode, clk := false, din := false, msel := false
        bitn := t.bitn, loop := t.loop, events := t.events }) ∧
    (s.mode = .icpMode → ∃ t, exec (.switchmode 0xA5) s = .next t ∧
      t.trace = s.trace ++ resetTrace .icpMode ++ enterAltTrace ∧
      t = { s with
        mode := .altMode, clk := false, din := true, msel := false
        bitn := t.bitn, loop := t.loop, events := t.events })

/-- SWITCHMODE with any other target is refused in every mode, `BadTarget` before `NotInitialized`: `ERR` and
nothing else (43_mode_switch.md section 2, 60_exceptions.md section 1; decisions D6 and D23, the mark: entry 24). -/
def Obligations.SwitchmodeRefusesEveryOtherTarget : Prop :=
  ∀ (s : State) (tgt : Byte), tgt ≠ 0x96 → tgt ≠ 0xA5 →
    exec (.switchmode tgt) s = .next { s with err := true, refusal := some .badTarget }

/-- Before the first HANDSHAKE every other command is refused: `ERR` and nothing else (60_exceptions.md section 1;
decision D5, the mark: entry 24). -/
def Obligations.UninitializedEngineRefusesAllButHandshake : Prop :=
  ∀ (s : State) (i : Instr), s.mode = .uninitialized → i.isCommand = true → i ≠ .handshake →
    i.wellFormed = true →
    exec i s = .next { s with err := true, refusal := some .notInitialized }

/-- Sizes of RESET and SWITCHMODE by starting mode: events, pulses, minimum time; no samples (43_mode_switch.md
section 2, the table at its end, derived there). -/
def Obligations.ResetAndSwitchmodeSizes : Prop :=
  ∀ (s t : State) (i : Instr) (m : Mode) (events pulses time : Nat),
    (i, m, events, pulses, time) ∈
      ([(.reset, .modeReset, 0, 0, 0), (.reset, .icpMode, 5, 0, 4), (.reset, .altMode, 142, 0, 140),
        (.switchmode 0x96, .icpMode, 0, 0, 0), (.switchmode 0x96, .modeReset, 143, 28, 860),
        (.switchmode 0x96, .altMode, 285, 28, 1000), (.switchmode 0xA5, .altMode, 0, 0, 0),
        (.switchmode 0xA5, .modeReset, 84, 18, 38), (.switchmode 0xA5, .icpMode, 89, 18, 42)]
        : List (Instr × Mode × Nat × Nat × Nat)) →
    s.mode = m → exec i s = .next t →
    ∃ es, t.trace = s.trace ++ es ∧ es.length = events ∧ pulseCount es = pulses ∧ waitSum es = time ∧
      samplesOf es = []

/-- The AltMode branch of RESET on the wire, entered with CLK low: 35 rising and 34 falling edges of CLK
(43_mode_switch.md section 1, derived there). -/
def Obligations.ResetFromAltModeEdges : Prop :=
  ∀ s t : State, s.mode = .altMode → s.clk = false → exec .reset s = .next t →
    ∃ es, t.trace = s.trace ++ es ∧ risingEdges .clk s.clk es = 35 ∧ fallingEdges .clk s.clk es = 34

/-! ### The probes -/

/-- PING in every initialised mode: the command frames 0x49 and 0xFF; CLK and DIN end low, nothing is sampled, the
mode and all else stay (44_probes.md; decision D18 for the modes). -/
def Obligations.PingSendsItsTwoFrames : Prop :=
  ∀ s : State, s.mode ≠ .uninitialized →
    ∃ t, exec .ping s = .next t ∧ t.trace = s.trace ++ commandFrame 0x49 ++ commandFrame 0xFF ∧
      t = { s with clk := false, din := false, bitn := t.bitn, events := t.events }

/-- PING entered with CLK high shows one rising edge fewer than its 18 pulses: the first pulse has only a falling
edge (41_transfer_primitives.md, "The clock level on entry", derived there). -/
def Obligations.PingEnteredWithClkHighLosesOneRisingEdge : Prop :=
  ∀ s t : State, s.mode ≠ .uninitialized → exec .ping s = .next t →
    ∃ es, t.trace = s.trace ++ es ∧ pulseCount es = 18 ∧
      risingEdges .clk s.clk es = (if s.clk then 17 else 18) ∧ fallingEdges .clk s.clk es = 18

/-- CHECK in every initialised mode: CLK low, the six command frames, two receive frames; `CHK` says whether the
first byte received is 0x69; CLK and DIN end low; mode, MSEL and RBUF stay (44_probes.md; decisions D15, D16, D18). -/
def Obligations.CheckComparesTheFirstByteReceived : Prop :=
  ∀ s : State, s.mode ≠ .uninitialized →
    ∃ t, exec .check s = .next t ∧ t.trace = s.trace ++ checkSends ++ receiveFrames s 2 ∧
      t = { s with
        chk := s.incoming 0 == 0x69, chkValid := true, clk := false, din := false
        dout := s.dout.drop 16, draws := s.draws + 16, acc := t.acc, bitn := t.bitn, events := t.events }

/-- `CHK` is 1 exactly when the first eight samples are 1,0,0,1,0,1,1,0 in time order, whatever the second byte is
(44_probes.md, derived there). -/
def Obligations.CheckSucceedsExactlyOnTheEchoSamples : Prop :=
  ∀ s t : State, s.mode ≠ .uninitialized → exec .check s = .next t →
    (t.chk = true ↔ (List.range 8).map s.drawAt = [true, false, false, true, false, true, true, false])

/-! ### READFLASH -/

/-- READFLASH in every initialised mode: RESET's branch and the whole entry into IcpMode unconditionally, the
preamble if configured, the address fields each after its selector, the read opcode, sixteen receive frames;
`CHK` and all else stay (45_flash_read.md; MSEL is as RESET left it). -/
def Obligations.ReadflashRunsItsPhases : Prop :=
  ∀ (s : State) (addr : Addr24) (cb : Bool), s.mode ≠ .uninitialized →
    ∃ t, exec (.readflash addr cb) s = .next t ∧
      t.trace = s.trace ++ resetTrace s.mode ++ enterIcpTrace ++ readflashSends s.cfg addr cb ++ receiveFrames s 16 ∧
      t = { s with
        mode := .icpMode, clk := false, din := false
        msel := if s.mode = .modeReset then s.msel else false
        rbuf := t.rbuf, rbufValid := true, dout := s.dout.drop 128, draws := s.draws + 128
        acc := t.acc, bitn := t.bitn, byten := t.byten, loop := t.loop, events := t.events }

/-- The read buffer after READFLASH: `RBUF[k]` is the value of the `k`-th receive frame, for every `k` from 0 to
15, and no other address changes (45_flash_read.md, the data phase; 20_memory.md section 2). -/
def Obligations.ReadflashFillsTheBufferInOrder : Prop :=
  ∀ (s t : State) (addr : Addr24) (cb : Bool), s.mode ≠ .uninitialized → s.rbuf.wf = true →
    exec (.readflash addr cb) s = .next t →
    (∀ k, k < 16 → t.rbuf.read k = s.incoming k) ∧ (∀ a, 16 ≤ a → t.rbuf.read a = s.rbuf.read a) ∧
      t.rbuf.wf = true

/-- Two READFLASH commands from the same state that differ only in `CB`: the same events, spelled out, but for the one
command frame of the read opcode, 0x44 in one and 0x4A in the other, and the same state otherwise (45_flash_read.md,
the read opcode; the events around it rest on the decisions of RESET and the entry, D9 to D15). -/
def Obligations.CbChoosesTheReadOpcodeOnly : Prop :=
  ∀ (s : State) (addr : Addr24), s.mode ≠ .uninitialized →
    ∃ (t u : State) (before after : List Event),
      before = resetTrace s.mode ++ enterIcpTrace ++
        (if s.cfg.extraPreamble then commandFrames [0x46, 0xFE, 0xFF] else []) ++
        commandFrames [0x40, addr.extractLsb' 0 8, 0x41, addr.extractLsb' 8 8] ++
        (if s.cfg.addrHighField then commandFrames [0x4C, addr.extractLsb' 16 8] else []) ∧
      after = receiveFrames s 16 ∧
      exec (.readflash addr false) s = .next t ∧ exec (.readflash addr true) s = .next u ∧
      t.trace = s.trace ++ before ++ commandFrame 0x44 ++ after ∧
      u.trace = s.trace ++ before ++ commandFrame 0x4A ++ after ∧ u = { t with events := u.events }

/-- The data phase: exactly sixteen receive frames right after the read opcode, 144 pulses, 128 samples, 720 events,
whatever is sampled; `RBUF[k]` is written when the `k`-th of them is complete, not before, and the buffer ends as
the sixteen values in call order. -/
def Obligations.DataPhaseIsSixteenReceiveFrames : Prop :=
  (∀ (s t : State) (addr : Addr24) (cb : Bool), s.mode ≠ .uninitialized → s.rbuf.wf = true →
    exec (.readflash addr cb) s = .next t →
    ∃ before data, t.trace = s.trace ++ before ++ commandFrame (if cb then 0x4A else 0x44) ++ data ∧
      data = receiveFrames s 16 ∧ pulseCount data = 144 ∧ (samplesOf data).length = 128 ∧ data.length = 720 ∧
      (List.range 16).map t.rbuf.read = (List.range 16).map s.incoming) ∧
  (∀ (s : State) (k : Nat), k < 16 → s.rbuf.wf = true →
    ((List.range (k + 1)).foldl receiveInto s).rbuf.read k = s.incoming k ∧
    ∀ j, k < j → ((List.range (k + 1)).foldl receiveInto s).rbuf.read j = s.rbuf.read j)

/-- Without the third address field, two READFLASH commands that differ only in `ADDR[23:16]` give identical
states, traces included (20_memory.md section 1, derived there; decision D28). -/
def Obligations.ReadflashIgnoresTheHighByteWhenNotConfigured : Prop :=
  ∀ (s : State) (a b : Addr24) (cb : Bool), s.cfg.addrHighField = false →
    a.extractLsb' 0 16 = b.extractLsb' 0 16 → exec (.readflash a cb) s = exec (.readflash b cb) s

/-- Sizes of READFLASH for every configuration, mode, address and region (45_flash_read.md, the table, derived
there). -/
def Obligations.ReadflashSizes : Prop :=
  ∀ (s t : State) (addr : Addr24) (cb : Bool), s.mode ≠ .uninitialized → exec (.readflash addr cb) s = .next t →
    ∃ es, t.trace = s.trace ++ es ∧
      es.length = 1088 + (if s.mode = .icpMode then 5 else if s.mode = .altMode then 142 else 0)
        + (if s.cfg.extraPreamble then 135 else 0) + (if s.cfg.addrHighField then 90 else 0) ∧
      pulseCount es = 217 + (if s.cfg.extraPreamble then 27 else 0) + (if s.cfg.addrHighField then 18 else 0) ∧
      waitSum es = 1238 + (if s.mode = .icpMode then 4 else if s.mode = .altMode then 140 else 0)
        + (if s.cfg.extraPreamble then 54 else 0) + (if s.cfg.addrHighField then 36 else 0) ∧
      (samplesOf es).length = 128

/-! ### Whole-machine rules -/

/-- Who writes `mode`, and to what (10_state.md section 2): HANDSHAKE to ModeReset; RESET to ModeReset; SWITCHMODE
to its target; READFLASH to IcpMode; only HANDSHAKE leaves Uninitialized; nothing else writes it. -/
def Obligations.ModeTransitionsAreTheLegalOnes : Prop :=
  ∀ (s t : State) (i : Instr), exec i s = .next t →
    (i = .handshake → t.mode = .modeReset) ∧
    (i = .reset → t.mode = if s.mode = .uninitialized then .uninitialized else .modeReset) ∧
    (∀ tgt, i = .switchmode tgt →
      t.mode = if s.mode = .uninitialized then .uninitialized
        else if tgt = 0x96 then .icpMode else if tgt = 0xA5 then .altMode else s.mode) ∧
    (∀ a c, i = .readflash a c → t.mode = if s.mode = .uninitialized then .uninitialized else .icpMode) ∧
    (i ≠ .handshake → s.mode = .uninitialized → t.mode = .uninitialized) ∧
    (i = .check ∨ i = .ping ∨ i.isCommand = false → t.mode = s.mode)

/-- The read buffer is written by READFLASH only, `CHK` by CHECK only, and the operand latches, `BUSY`, the
configuration and the port by no instruction (10_state.md sections 4 to 6 and 8). -/
def Obligations.EachResultHasOneWriter : Prop :=
  ∀ (s t : State) (i : Instr), exec i s = .next t →
    ((∀ a c, i ≠ .readflash a c) → ∀ a, t.rbuf.read a = s.rbuf.read a) ∧
    (i ≠ .check → t.chk = s.chk) ∧
    t.addr = s.addr ∧ t.cb = s.cb ∧ t.tgt = s.tgt ∧ t.busy = s.busy ∧ t.seq = s.seq ∧ t.cfg = s.cfg ∧
    t.inputs = s.inputs

/-- Only CHECK and READFLASH sample DOUT: every other instruction leaves the draws untouched and records no sample
(43_mode_switch.md section 2; 44_probes.md; 42_entry_handshake.md). -/
def Obligations.OnlyCheckAndReadflashSample : Prop :=
  ∀ (s t : State) (i : Instr), exec i s = .next t → i ≠ .check → (∀ a c, i ≠ .readflash a c) →
    ∃ es, t.trace = s.trace ++ es ∧ samplesOf es = [] ∧ t.dout = s.dout ∧ t.draws = s.draws

/-- What the target presents cannot change what the engine does on its outputs: two runs of one instruction that
differ only in the draws give the same events up to the sampled values, and differ in nothing but the draws and
what is read from them (45_flash_read.md, the data phase; 41_transfer_primitives.md). -/
def Obligations.DrawsChangeOnlyWhatIsReadFromThem : Prop :=
  ∀ (s t t' : State) (i : Instr) (script : List Bool) (index : Nat),
    exec i s = .next t → exec i { s with dout := script, draws := index } = .next t' →
    sameShape t t' ∧
      t' = { t with
        dout := t'.dout, draws := t'.draws, events := t'.events, acc := t'.acc, rbuf := t'.rbuf, chk := t'.chk }

/-- The line levels between operations (10_state.md section 11, derived there) are kept by every host command: what the
mode alone fixes, and every row of the table with what it says of the way the mode was reached, CLK and DIN in
ModeReset and DIN in AltMode among them. -/
def Obligations.LineLevelsFitAfterEveryCommand : Prop :=
  ∀ (s t : State) (i : Instr), i.isCommand = true → exec i s = .next t →
    (LevelsFit s → LevelsFit t) ∧ ∀ r : LevelRow, r.fits s → (r.after i).fits t

/-- The line levels fit right after hardware reset, and the row is the first: nothing is driven. -/
def Obligations.LineLevelsFitAtReset : Prop := LevelsFit State.reset ∧ LevelRow.undriven.fits State.reset
end

