-- ==== Sys2Proof/Laws/Encoding.lean ====
section
/-! SUPPORT. The fields of a packed command word. -/

namespace Sys2Proof

theorem fieldOp_packCommand (op : BitVec 4) (cb : Bool) (a : Addr24) : fieldOp (packCommand op cb a) = op := by
  apply BitVec.eq_of_getLsbD_eq
  intro i hi
  simp only [fieldOp, packCommand, BitVec.getLsbD_extractLsb', BitVec.getLsbD_append]
  interval_cases i <;> simp

theorem fieldCb_packCommand (op : BitVec 4) (cb : Bool) (a : Addr24) : fieldCb (packCommand op cb a) = cb := by
  simp only [fieldCb, packCommand, BitVec.getLsbD_append]
  simp

theorem fieldAddr_packCommand (op : BitVec 4) (cb : Bool) (a : Addr24) : fieldAddr (packCommand op cb a) = a := by
  apply BitVec.eq_of_getLsbD_eq
  intro i hi
  have h1 : i < 28 := by omega
  have h2 : i < 25 := by omega
  simp only [fieldAddr, packCommand, BitVec.getLsbD_extractLsb', BitVec.getLsbD_append]
  simp [hi, h1, h2]

/-- `TGT` is the low byte of `ADDR` (30_encoding.md R72). -/
theorem fieldTgt_packCommand (op : BitVec 4) (cb : Bool) (a : Addr24) :
    fieldTgt (packCommand op cb a) = a.extractLsb' 0 8 := by
  apply BitVec.eq_of_getLsbD_eq
  intro i hi
  have h1 : i < 28 := by omega
  have h2 : i < 25 := by omega
  have h3 : i < 24 := by omega
  simp only [fieldTgt, packCommand, BitVec.getLsbD_extractLsb', BitVec.getLsbD_append]
  simp [hi, h1, h2, h3]

end Sys2Proof
end

