-- ==== Sys2Proof/Laws/Memory.lean ====
section
/-! SUPPORT. The read buffer's memory: read after write, and the canonical form. -/

namespace Sys2Proof.Machine

@[simp] theorem memory_read_nil (a : Nat) : Memory.read [] a = unlistedByte := rfl

/-- Below every listed address memory reads as unlisted. -/
theorem memory_read_below {hi lo : Nat} {m : Memory} (h : Memory.wfFrom hi lo m = true) {a : Nat} (ha : a < lo) :
    m.read a = unlistedByte := by
  induction m generalizing lo with
  | nil => rfl
  | cons c rest ih =>
    obtain ⟨k, v⟩ := c
    simp only [Memory.wfFrom, Bool.and_eq_true, decide_eq_true_eq] at h
    have hne : k ≠ a := by omega
    simp only [Memory.read, if_neg hne]
    exact ih h.2 (by omega)

/-- The canonical form from a bound holds from every lower bound. -/
theorem memory_wfFrom_mono {hi lo lo' : Nat} {m : Memory} (h : Memory.wfFrom hi lo m = true) (hl : lo' ≤ lo) :
    Memory.wfFrom hi lo' m = true := by
  cases m with
  | nil => rfl
  | cons c rest =>
    obtain ⟨k, v⟩ := c
    simp only [Memory.wfFrom, Bool.and_eq_true, decide_eq_true_eq] at h ⊢
    exact ⟨⟨⟨by omega, h.1.1.2⟩, h.1.2⟩, h.2⟩

/-- A write inside the buffer keeps the canonical form. -/
theorem memory_write_wfFrom {hi lo : Nat} {m : Memory} (h : Memory.wfFrom hi lo m = true) {a : Nat}
    (hlo : lo ≤ a) (hhi : a < hi) (v : Byte) : Memory.wfFrom hi lo (m.write a v) = true := by
  induction m generalizing lo with
  | nil => by_cases hv : v = unlistedByte <;> simp [Memory.write, Memory.wfFrom, hv, hlo, hhi]
  | cons c rest ih =>
    obtain ⟨k, w⟩ := c
    simp only [Memory.wfFrom, Bool.and_eq_true, decide_eq_true_eq] at h
    obtain ⟨⟨⟨hk, hkh⟩, hw⟩, hr⟩ := h
    rcases lt_trichotomy a k with hlt | heq | hgt
    · by_cases hv : v = unlistedByte
      · simp [Memory.write, Memory.wfFrom, hlt, hv, hk, hkh, hw, hr]
      · simp [Memory.write, Memory.wfFrom, hlt, hv, hlo, hhi, hkh, hw, hr]
    · subst heq
      by_cases hv : v = unlistedByte
      · simpa [Memory.write, hv] using memory_wfFrom_mono hr (by omega)
      · simp [Memory.write, Memory.wfFrom, hv, hlo, hhi, hr]
    · have h1 : ¬ a < k := by omega
      have h2 : a ≠ k := by omega
      simp [Memory.write, Memory.wfFrom, h1, h2, hk, hkh, hw, ih hr (by omega)]

/-- Every write of a byte of the buffer keeps its canonical form (10_state.md R25). -/
theorem memory_write_wf {m : Memory} (h : m.wf = true) {a : Nat} (ha : a < blockLen) (v : Byte) :
    (m.write a v).wf = true :=
  memory_write_wfFrom h (Nat.zero_le a) ha v

/-- A write leaves every other address alone. -/
theorem memory_read_write_other (m : Memory) {a b : Nat} (h : b ≠ a) (v : Byte) :
    (m.write a v).read b = m.read b := by
  induction m with
  | nil =>
    unfold Memory.write
    split
    · rfl
    · simp [Memory.read, Ne.symm h]
  | cons c rest ih =>
    obtain ⟨k, w⟩ := c
    unfold Memory.write
    split
    · split
      · rfl
      · simp [Memory.read, Ne.symm h]
    · split
      · rename_i _ heq
        subst heq
        split <;> simp [Memory.read, Ne.symm h]
      · simp [Memory.read, ih]

/-- A read after a write to the same address gives the value written. -/
theorem memory_read_write_same {hi lo : Nat} {m : Memory} (h : Memory.wfFrom hi lo m = true) (a : Nat) (v : Byte) :
    (m.write a v).read a = v := by
  induction m generalizing lo with
  | nil =>
    unfold Memory.write
    split
    · rename_i hv
      simp [hv]
    · simp [Memory.read]
  | cons c rest ih =>
    obtain ⟨k, w⟩ := c
    have hr : Memory.wfFrom hi (k + 1) rest = true := by
      simp only [Memory.wfFrom, Bool.and_eq_true] at h
      exact h.2
    unfold Memory.write
    split
    · rename_i hlt
      split
      · rename_i hv
        have hne : k ≠ a := by omega
        simp only [Memory.read, if_neg hne]
        rw [hv]
        exact memory_read_below hr (by omega)
      · simp [Memory.read]
    · split
      · rename_i _ heq
        subst heq
        split
        · rename_i hv
          rw [hv]
          exact memory_read_below hr (by omega)
        · simp [Memory.read]
      · rename_i _ hne
        have hne' : k ≠ a := fun e => hne e.symm
        simp only [Memory.read, if_neg hne']
        exact ih hr

end Sys2Proof.Machine
end

