-- ==== Sys2Proof/Laws/State.lean ====
section
/-! SUPPORT. One lemma per field per shared update of the state, each true by unfolding the update once. -/

namespace Sys2Proof.Machine

/-! ### `emit` -/

@[simp] theorem emit_mode (e : Event) (s : State) : (emit e s).mode = s.mode := rfl
@[simp] theorem emit_clk (e : Event) (s : State) : (emit e s).clk = s.clk := rfl
@[simp] theorem emit_din (e : Event) (s : State) : (emit e s).din = s.din := rfl
@[simp] theorem emit_msel (e : Event) (s : State) : (emit e s).msel = s.msel := rfl
@[simp] theorem emit_oe (e : Event) (s : State) : (emit e s).oe = s.oe := rfl
@[simp] theorem emit_rbuf (e : Event) (s : State) : (emit e s).rbuf = s.rbuf := rfl
@[simp] theorem emit_chk (e : Event) (s : State) : (emit e s).chk = s.chk := rfl
@[simp] theorem emit_addr (e : Event) (s : State) : (emit e s).addr = s.addr := rfl
@[simp] theorem emit_cb (e : Event) (s : State) : (emit e s).cb = s.cb := rfl
@[simp] theorem emit_tgt (e : Event) (s : State) : (emit e s).tgt = s.tgt := rfl
@[simp] theorem emit_busy (e : Event) (s : State) : (emit e s).busy = s.busy := rfl
@[simp] theorem emit_err (e : Event) (s : State) : (emit e s).err = s.err := rfl
@[simp] theorem emit_seq (e : Event) (s : State) : (emit e s).seq = s.seq := rfl
@[simp] theorem emit_acc (e : Event) (s : State) : (emit e s).acc = s.acc := rfl
@[simp] theorem emit_bitn (e : Event) (s : State) : (emit e s).bitn = s.bitn := rfl
@[simp] theorem emit_loop (e : Event) (s : State) : (emit e s).loop = s.loop := rfl
@[simp] theorem emit_byten (e : Event) (s : State) : (emit e s).byten = s.byten := rfl
@[simp] theorem emit_cfg (e : Event) (s : State) : (emit e s).cfg = s.cfg := rfl
@[simp] theorem emit_events (e : Event) (s : State) : (emit e s).events = e :: s.events := rfl
@[simp] theorem emit_dout (e : Event) (s : State) : (emit e s).dout = s.dout := rfl
@[simp] theorem emit_draws (e : Event) (s : State) : (emit e s).draws = s.draws := rfl
@[simp] theorem emit_chkValid (e : Event) (s : State) : (emit e s).chkValid = s.chkValid := rfl
@[simp] theorem emit_rbufValid (e : Event) (s : State) : (emit e s).rbufValid = s.rbufValid := rfl
@[simp] theorem emit_refusal (e : Event) (s : State) : (emit e s).refusal = s.refusal := rfl
@[simp] theorem emit_inputs (e : Event) (s : State) : (emit e s).inputs = s.inputs := rfl
@[simp] theorem emit_readData (e : Event) (s : State) : (emit e s).readData = s.readData := rfl
@[simp] theorem emit_freeReads (e : Event) (s : State) : (emit e s).freeReads = s.freeReads := rfl
@[simp] theorem emit_freeLatches (e : Event) (s : State) : (emit e s).freeLatches = s.freeLatches := rfl

/-! ### `setLatch` -/

@[simp] theorem setLatch_mode (l : Line) (b : Bool) (s : State) : (setLatch l b s).mode = s.mode := by cases l <;> rfl
@[simp] theorem setLatch_oe (l : Line) (b : Bool) (s : State) : (setLatch l b s).oe = s.oe := by cases l <;> rfl
@[simp] theorem setLatch_rbuf (l : Line) (b : Bool) (s : State) : (setLatch l b s).rbuf = s.rbuf := by cases l <;> rfl
@[simp] theorem setLatch_chk (l : Line) (b : Bool) (s : State) : (setLatch l b s).chk = s.chk := by cases l <;> rfl
@[simp] theorem setLatch_addr (l : Line) (b : Bool) (s : State) : (setLatch l b s).addr = s.addr := by cases l <;> rfl
@[simp] theorem setLatch_cb (l : Line) (b : Bool) (s : State) : (setLatch l b s).cb = s.cb := by cases l <;> rfl
@[simp] theorem setLatch_tgt (l : Line) (b : Bool) (s : State) : (setLatch l b s).tgt = s.tgt := by cases l <;> rfl
@[simp] theorem setLatch_busy (l : Line) (b : Bool) (s : State) : (setLatch l b s).busy = s.busy := by cases l <;> rfl
@[simp] theorem setLatch_err (l : Line) (b : Bool) (s : State) : (setLatch l b s).err = s.err := by cases l <;> rfl
@[simp] theorem setLatch_seq (l : Line) (b : Bool) (s : State) : (setLatch l b s).seq = s.seq := by cases l <;> rfl
@[simp] theorem setLatch_acc (l : Line) (b : Bool) (s : State) : (setLatch l b s).acc = s.acc := by cases l <;> rfl
@[simp] theorem setLatch_bitn (l : Line) (b : Bool) (s : State) : (setLatch l b s).bitn = s.bitn := by cases l <;> rfl
@[simp] theorem setLatch_loop (l : Line) (b : Bool) (s : State) : (setLatch l b s).loop = s.loop := by cases l <;> rfl
@[simp] theorem setLatch_byten (l : Line) (b : Bool) (s : State) : (setLatch l b s).byten = s.byten := by cases l <;> rfl
@[simp] theorem setLatch_cfg (l : Line) (b : Bool) (s : State) : (setLatch l b s).cfg = s.cfg := by cases l <;> rfl
@[simp] theorem setLatch_events (l : Line) (b : Bool) (s : State) : (setLatch l b s).events = s.events := by cases l <;> rfl
@[simp] theorem setLatch_dout (l : Line) (b : Bool) (s : State) : (setLatch l b s).dout = s.dout := by cases l <;> rfl
@[simp] theorem setLatch_draws (l : Line) (b : Bool) (s : State) : (setLatch l b s).draws = s.draws := by cases l <;> rfl
@[simp] theorem setLatch_chkValid (l : Line) (b : Bool) (s : State) : (setLatch l b s).chkValid = s.chkValid := by cases l <;> rfl
@[simp] theorem setLatch_rbufValid (l : Line) (b : Bool) (s : State) : (setLatch l b s).rbufValid = s.rbufValid := by cases l <;> rfl
@[simp] theorem setLatch_refusal (l : Line) (b : Bool) (s : State) : (setLatch l b s).refusal = s.refusal := by cases l <;> rfl
@[simp] theorem setLatch_inputs (l : Line) (b : Bool) (s : State) : (setLatch l b s).inputs = s.inputs := by cases l <;> rfl
@[simp] theorem setLatch_readData (l : Line) (b : Bool) (s : State) : (setLatch l b s).readData = s.readData := by cases l <;> rfl
@[simp] theorem setLatch_freeReads (l : Line) (b : Bool) (s : State) : (setLatch l b s).freeReads = s.freeReads := by cases l <;> rfl
@[simp] theorem setLatch_freeLatches (l : Line) (b : Bool) (s : State) : (setLatch l b s).freeLatches = s.freeLatches := by cases l <;> rfl

/-! ### `countLoop` -/

@[simp] theorem countLoop_mode (s : State) : (countLoop s).mode = s.mode := rfl
@[simp] theorem countLoop_clk (s : State) : (countLoop s).clk = s.clk := rfl
@[simp] theorem countLoop_din (s : State) : (countLoop s).din = s.din := rfl
@[simp] theorem countLoop_msel (s : State) : (countLoop s).msel = s.msel := rfl
@[simp] theorem countLoop_oe (s : State) : (countLoop s).oe = s.oe := rfl
@[simp] theorem countLoop_rbuf (s : State) : (countLoop s).rbuf = s.rbuf := rfl
@[simp] theorem countLoop_chk (s : State) : (countLoop s).chk = s.chk := rfl
@[simp] theorem countLoop_addr (s : State) : (countLoop s).addr = s.addr := rfl
@[simp] theorem countLoop_cb (s : State) : (countLoop s).cb = s.cb := rfl
@[simp] theorem countLoop_tgt (s : State) : (countLoop s).tgt = s.tgt := rfl
@[simp] theorem countLoop_busy (s : State) : (countLoop s).busy = s.busy := rfl
@[simp] theorem countLoop_err (s : State) : (countLoop s).err = s.err := rfl
@[simp] theorem countLoop_seq (s : State) : (countLoop s).seq = s.seq := rfl
@[simp] theorem countLoop_acc (s : State) : (countLoop s).acc = s.acc := rfl
@[simp] theorem countLoop_bitn (s : State) : (countLoop s).bitn = s.bitn := rfl
@[simp] theorem countLoop_loop (s : State) : (countLoop s).loop = s.loop - 1 := rfl
@[simp] theorem countLoop_byten (s : State) : (countLoop s).byten = s.byten := rfl
@[simp] theorem countLoop_cfg (s : State) : (countLoop s).cfg = s.cfg := rfl
@[simp] theorem countLoop_events (s : State) : (countLoop s).events = s.events := rfl
@[simp] theorem countLoop_dout (s : State) : (countLoop s).dout = s.dout := rfl
@[simp] theorem countLoop_draws (s : State) : (countLoop s).draws = s.draws := rfl
@[simp] theorem countLoop_chkValid (s : State) : (countLoop s).chkValid = s.chkValid := rfl
@[simp] theorem countLoop_rbufValid (s : State) : (countLoop s).rbufValid = s.rbufValid := rfl
@[simp] theorem countLoop_refusal (s : State) : (countLoop s).refusal = s.refusal := rfl
@[simp] theorem countLoop_inputs (s : State) : (countLoop s).inputs = s.inputs := rfl
@[simp] theorem countLoop_readData (s : State) : (countLoop s).readData = s.readData := rfl
@[simp] theorem countLoop_freeReads (s : State) : (countLoop s).freeReads = s.freeReads := rfl
@[simp] theorem countLoop_freeLatches (s : State) : (countLoop s).freeLatches = s.freeLatches := rfl

/-! ### `refuse` -/

@[simp] theorem refuse_mode (r : RefuseReason) (s : State) : (refuse r s).mode = s.mode := rfl
@[simp] theorem refuse_clk (r : RefuseReason) (s : State) : (refuse r s).clk = s.clk := rfl
@[simp] theorem refuse_din (r : RefuseReason) (s : State) : (refuse r s).din = s.din := rfl
@[simp] theorem refuse_msel (r : RefuseReason) (s : State) : (refuse r s).msel = s.msel := rfl
@[simp] theorem refuse_oe (r : RefuseReason) (s : State) : (refuse r s).oe = s.oe := rfl
@[simp] theorem refuse_rbuf (r : RefuseReason) (s : State) : (refuse r s).rbuf = s.rbuf := rfl
@[simp] theorem refuse_chk (r : RefuseReason) (s : State) : (refuse r s).chk = s.chk := rfl
@[simp] theorem refuse_addr (r : RefuseReason) (s : State) : (refuse r s).addr = s.addr := rfl
@[simp] theorem refuse_cb (r : RefuseReason) (s : State) : (refuse r s).cb = s.cb := rfl
@[simp] theorem refuse_tgt (r : RefuseReason) (s : State) : (refuse r s).tgt = s.tgt := rfl
@[simp] theorem refuse_busy (r : RefuseReason) (s : State) : (refuse r s).busy = s.busy := rfl
@[simp] theorem refuse_err (r : RefuseReason) (s : State) : (refuse r s).err = true := rfl
@[simp] theorem refuse_seq (r : RefuseReason) (s : State) : (refuse r s).seq = s.seq := rfl
@[simp] theorem refuse_acc (r : RefuseReason) (s : State) : (refuse r s).acc = s.acc := rfl
@[simp] theorem refuse_bitn (r : RefuseReason) (s : State) : (refuse r s).bitn = s.bitn := rfl
@[simp] theorem refuse_loop (r : RefuseReason) (s : State) : (refuse r s).loop = s.loop := rfl
@[simp] theorem refuse_byten (r : RefuseReason) (s : State) : (refuse r s).byten = s.byten := rfl
@[simp] theorem refuse_cfg (r : RefuseReason) (s : State) : (refuse r s).cfg = s.cfg := rfl
@[simp] theorem refuse_events (r : RefuseReason) (s : State) : (refuse r s).events = s.events := rfl
@[simp] theorem refuse_dout (r : RefuseReason) (s : State) : (refuse r s).dout = s.dout := rfl
@[simp] theorem refuse_draws (r : RefuseReason) (s : State) : (refuse r s).draws = s.draws := rfl
@[simp] theorem refuse_chkValid (r : RefuseReason) (s : State) : (refuse r s).chkValid = s.chkValid := rfl
@[simp] theorem refuse_rbufValid (r : RefuseReason) (s : State) : (refuse r s).rbufValid = s.rbufValid := rfl
@[simp] theorem refuse_refusal (r : RefuseReason) (s : State) : (refuse r s).refusal = some r := rfl
@[simp] theorem refuse_inputs (r : RefuseReason) (s : State) : (refuse r s).inputs = s.inputs := rfl
@[simp] theorem refuse_readData (r : RefuseReason) (s : State) : (refuse r s).readData = s.readData := rfl
@[simp] theorem refuse_freeReads (r : RefuseReason) (s : State) : (refuse r s).freeReads = s.freeReads := rfl
@[simp] theorem refuse_freeLatches (r : RefuseReason) (s : State) : (refuse r s).freeLatches = s.freeLatches := rfl

/-! ### `latchOperands` -/

@[simp] theorem latchOperands_mode (w : Word) (s : State) : (latchOperands w s).mode = s.mode := rfl
@[simp] theorem latchOperands_clk (w : Word) (s : State) : (latchOperands w s).clk = s.clk := rfl
@[simp] theorem latchOperands_din (w : Word) (s : State) : (latchOperands w s).din = s.din := rfl
@[simp] theorem latchOperands_msel (w : Word) (s : State) : (latchOperands w s).msel = s.msel := rfl
@[simp] theorem latchOperands_oe (w : Word) (s : State) : (latchOperands w s).oe = s.oe := rfl
@[simp] theorem latchOperands_rbuf (w : Word) (s : State) : (latchOperands w s).rbuf = s.rbuf := rfl
@[simp] theorem latchOperands_chk (w : Word) (s : State) : (latchOperands w s).chk = s.chk := rfl
@[simp] theorem latchOperands_addr (w : Word) (s : State) : (latchOperands w s).addr = fieldAddr w := rfl
@[simp] theorem latchOperands_cb (w : Word) (s : State) : (latchOperands w s).cb = fieldCb w := rfl
@[simp] theorem latchOperands_tgt (w : Word) (s : State) : (latchOperands w s).tgt = fieldTgt w := rfl
@[simp] theorem latchOperands_busy (w : Word) (s : State) : (latchOperands w s).busy = s.busy := rfl
@[simp] theorem latchOperands_err (w : Word) (s : State) : (latchOperands w s).err = s.err := rfl
@[simp] theorem latchOperands_seq (w : Word) (s : State) : (latchOperands w s).seq = s.seq := rfl
@[simp] theorem latchOperands_acc (w : Word) (s : State) : (latchOperands w s).acc = s.acc := rfl
@[simp] theorem latchOperands_bitn (w : Word) (s : State) : (latchOperands w s).bitn = s.bitn := rfl
@[simp] theorem latchOperands_loop (w : Word) (s : State) : (latchOperands w s).loop = s.loop := rfl
@[simp] theorem latchOperands_byten (w : Word) (s : State) : (latchOperands w s).byten = s.byten := rfl
@[simp] theorem latchOperands_cfg (w : Word) (s : State) : (latchOperands w s).cfg = s.cfg := rfl
@[simp] theorem latchOperands_events (w : Word) (s : State) : (latchOperands w s).events = s.events := rfl
@[simp] theorem latchOperands_dout (w : Word) (s : State) : (latchOperands w s).dout = s.dout := rfl
@[simp] theorem latchOperands_draws (w : Word) (s : State) : (latchOperands w s).draws = s.draws := rfl
@[simp] theorem latchOperands_chkValid (w : Word) (s : State) : (latchOperands w s).chkValid = s.chkValid := rfl
@[simp] theorem latchOperands_rbufValid (w : Word) (s : State) : (latchOperands w s).rbufValid = s.rbufValid := rfl
@[simp] theorem latchOperands_refusal (w : Word) (s : State) : (latchOperands w s).refusal = s.refusal := rfl
@[simp] theorem latchOperands_inputs (w : Word) (s : State) : (latchOperands w s).inputs = s.inputs := rfl
@[simp] theorem latchOperands_readData (w : Word) (s : State) : (latchOperands w s).readData = s.readData := rfl
@[simp] theorem latchOperands_freeReads (w : Word) (s : State) : (latchOperands w s).freeReads = s.freeReads := rfl
@[simp] theorem latchOperands_freeLatches (w : Word) (s : State) : (latchOperands w s).freeLatches = s.freeLatches := rfl

/-! ### `writeChk` -/

@[simp] theorem writeChk_mode (a : Byte) (s : State) : (writeChk a s).mode = s.mode := rfl
@[simp] theorem writeChk_clk (a : Byte) (s : State) : (writeChk a s).clk = s.clk := rfl
@[simp] theorem writeChk_din (a : Byte) (s : State) : (writeChk a s).din = s.din := rfl
@[simp] theorem writeChk_msel (a : Byte) (s : State) : (writeChk a s).msel = s.msel := rfl
@[simp] theorem writeChk_oe (a : Byte) (s : State) : (writeChk a s).oe = s.oe := rfl
@[simp] theorem writeChk_rbuf (a : Byte) (s : State) : (writeChk a s).rbuf = s.rbuf := rfl
@[simp] theorem writeChk_chk (a : Byte) (s : State) : (writeChk a s).chk = (a == CHECK_ECHO) := rfl
@[simp] theorem writeChk_addr (a : Byte) (s : State) : (writeChk a s).addr = s.addr := rfl
@[simp] theorem writeChk_cb (a : Byte) (s : State) : (writeChk a s).cb = s.cb := rfl
@[simp] theorem writeChk_tgt (a : Byte) (s : State) : (writeChk a s).tgt = s.tgt := rfl
@[simp] theorem writeChk_busy (a : Byte) (s : State) : (writeChk a s).busy = s.busy := rfl
@[simp] theorem writeChk_err (a : Byte) (s : State) : (writeChk a s).err = s.err := rfl
@[simp] theorem writeChk_seq (a : Byte) (s : State) : (writeChk a s).seq = s.seq := rfl
@[simp] theorem writeChk_acc (a : Byte) (s : State) : (writeChk a s).acc = s.acc := rfl
@[simp] theorem writeChk_bitn (a : Byte) (s : State) : (writeChk a s).bitn = s.bitn := rfl
@[simp] theorem writeChk_loop (a : Byte) (s : State) : (writeChk a s).loop = s.loop := rfl
@[simp] theorem writeChk_byten (a : Byte) (s : State) : (writeChk a s).byten = s.byten := rfl
@[simp] theorem writeChk_cfg (a : Byte) (s : State) : (writeChk a s).cfg = s.cfg := rfl
@[simp] theorem writeChk_events (a : Byte) (s : State) : (writeChk a s).events = s.events := rfl
@[simp] theorem writeChk_dout (a : Byte) (s : State) : (writeChk a s).dout = s.dout := rfl
@[simp] theorem writeChk_draws (a : Byte) (s : State) : (writeChk a s).draws = s.draws := rfl
@[simp] theorem writeChk_chkValid (a : Byte) (s : State) : (writeChk a s).chkValid = true := rfl
@[simp] theorem writeChk_rbufValid (a : Byte) (s : State) : (writeChk a s).rbufValid = s.rbufValid := rfl
@[simp] theorem writeChk_refusal (a : Byte) (s : State) : (writeChk a s).refusal = s.refusal := rfl
@[simp] theorem writeChk_inputs (a : Byte) (s : State) : (writeChk a s).inputs = s.inputs := rfl
@[simp] theorem writeChk_readData (a : Byte) (s : State) : (writeChk a s).readData = s.readData := rfl
@[simp] theorem writeChk_freeReads (a : Byte) (s : State) : (writeChk a s).freeReads = s.freeReads := rfl
@[simp] theorem writeChk_freeLatches (a : Byte) (s : State) : (writeChk a s).freeLatches = s.freeLatches := rfl

/-! ### `smpDout` -/

@[simp] theorem smpDout_mode (s : State) : (smpDout s).mode = s.mode := rfl
@[simp] theorem smpDout_clk (s : State) : (smpDout s).clk = s.clk := rfl
@[simp] theorem smpDout_din (s : State) : (smpDout s).din = s.din := rfl
@[simp] theorem smpDout_msel (s : State) : (smpDout s).msel = s.msel := rfl
@[simp] theorem smpDout_oe (s : State) : (smpDout s).oe = s.oe := rfl
@[simp] theorem smpDout_rbuf (s : State) : (smpDout s).rbuf = s.rbuf := rfl
@[simp] theorem smpDout_chk (s : State) : (smpDout s).chk = s.chk := rfl
@[simp] theorem smpDout_addr (s : State) : (smpDout s).addr = s.addr := rfl
@[simp] theorem smpDout_cb (s : State) : (smpDout s).cb = s.cb := rfl
@[simp] theorem smpDout_tgt (s : State) : (smpDout s).tgt = s.tgt := rfl
@[simp] theorem smpDout_busy (s : State) : (smpDout s).busy = s.busy := rfl
@[simp] theorem smpDout_err (s : State) : (smpDout s).err = s.err := rfl
@[simp] theorem smpDout_seq (s : State) : (smpDout s).seq = s.seq := rfl
@[simp] theorem smpDout_acc (s : State) : (smpDout s).acc = s.acc := rfl
@[simp] theorem smpDout_bitn (s : State) : (smpDout s).bitn = s.bitn := rfl
@[simp] theorem smpDout_loop (s : State) : (smpDout s).loop = s.loop := rfl
@[simp] theorem smpDout_byten (s : State) : (smpDout s).byten = s.byten := rfl
@[simp] theorem smpDout_cfg (s : State) : (smpDout s).cfg = s.cfg := rfl
@[simp] theorem smpDout_events (s : State) : (smpDout s).events = .smp (s.drawAt 0) :: s.events := rfl
@[simp] theorem smpDout_dout (s : State) : (smpDout s).dout = s.dout.tail := rfl
@[simp] theorem smpDout_draws (s : State) : (smpDout s).draws = s.draws + 1 := rfl
@[simp] theorem smpDout_chkValid (s : State) : (smpDout s).chkValid = s.chkValid := rfl
@[simp] theorem smpDout_rbufValid (s : State) : (smpDout s).rbufValid = s.rbufValid := rfl
@[simp] theorem smpDout_refusal (s : State) : (smpDout s).refusal = s.refusal := rfl
@[simp] theorem smpDout_inputs (s : State) : (smpDout s).inputs = s.inputs := rfl
@[simp] theorem smpDout_readData (s : State) : (smpDout s).readData = s.readData := rfl
@[simp] theorem smpDout_freeReads (s : State) : (smpDout s).freeReads = s.freeReads := rfl
@[simp] theorem smpDout_freeLatches (s : State) : (smpDout s).freeLatches = s.freeLatches := rfl

/-! ### `pushItems` -/

@[simp] theorem pushItems_mode (b : List Item) (s : State) : (pushItems b s).mode = s.mode := rfl
@[simp] theorem pushItems_clk (b : List Item) (s : State) : (pushItems b s).clk = s.clk := rfl
@[simp] theorem pushItems_din (b : List Item) (s : State) : (pushItems b s).din = s.din := rfl
@[simp] theorem pushItems_msel (b : List Item) (s : State) : (pushItems b s).msel = s.msel := rfl
@[simp] theorem pushItems_oe (b : List Item) (s : State) : (pushItems b s).oe = s.oe := rfl
@[simp] theorem pushItems_rbuf (b : List Item) (s : State) : (pushItems b s).rbuf = s.rbuf := rfl
@[simp] theorem pushItems_chk (b : List Item) (s : State) : (pushItems b s).chk = s.chk := rfl
@[simp] theorem pushItems_addr (b : List Item) (s : State) : (pushItems b s).addr = s.addr := rfl
@[simp] theorem pushItems_cb (b : List Item) (s : State) : (pushItems b s).cb = s.cb := rfl
@[simp] theorem pushItems_tgt (b : List Item) (s : State) : (pushItems b s).tgt = s.tgt := rfl
@[simp] theorem pushItems_busy (b : List Item) (s : State) : (pushItems b s).busy = s.busy := rfl
@[simp] theorem pushItems_err (b : List Item) (s : State) : (pushItems b s).err = s.err := rfl
@[simp] theorem pushItems_seq (b : List Item) (s : State) : (pushItems b s).seq = b ++ s.seq := rfl
@[simp] theorem pushItems_acc (b : List Item) (s : State) : (pushItems b s).acc = s.acc := rfl
@[simp] theorem pushItems_bitn (b : List Item) (s : State) : (pushItems b s).bitn = s.bitn := rfl
@[simp] theorem pushItems_loop (b : List Item) (s : State) : (pushItems b s).loop = s.loop := rfl
@[simp] theorem pushItems_byten (b : List Item) (s : State) : (pushItems b s).byten = s.byten := rfl
@[simp] theorem pushItems_cfg (b : List Item) (s : State) : (pushItems b s).cfg = s.cfg := rfl
@[simp] theorem pushItems_events (b : List Item) (s : State) : (pushItems b s).events = s.events := rfl
@[simp] theorem pushItems_dout (b : List Item) (s : State) : (pushItems b s).dout = s.dout := rfl
@[simp] theorem pushItems_draws (b : List Item) (s : State) : (pushItems b s).draws = s.draws := rfl
@[simp] theorem pushItems_chkValid (b : List Item) (s : State) : (pushItems b s).chkValid = s.chkValid := rfl
@[simp] theorem pushItems_rbufValid (b : List Item) (s : State) : (pushItems b s).rbufValid = s.rbufValid := rfl
@[simp] theorem pushItems_refusal (b : List Item) (s : State) : (pushItems b s).refusal = s.refusal := rfl
@[simp] theorem pushItems_inputs (b : List Item) (s : State) : (pushItems b s).inputs = s.inputs := rfl
@[simp] theorem pushItems_readData (b : List Item) (s : State) : (pushItems b s).readData = s.readData := rfl
@[simp] theorem pushItems_freeReads (b : List Item) (s : State) : (pushItems b s).freeReads = s.freeReads := rfl
@[simp] theorem pushItems_freeLatches (b : List Item) (s : State) : (pushItems b s).freeLatches = s.freeLatches := rfl

/-! ### Latches -/

@[simp] theorem setLatch_clk_clk (b : Bool) (s : State) : (setLatch .clk b s).clk = b := rfl
@[simp] theorem setLatch_clk_din (b : Bool) (s : State) : (setLatch .clk b s).din = s.din := rfl
@[simp] theorem setLatch_clk_msel (b : Bool) (s : State) : (setLatch .clk b s).msel = s.msel := rfl
@[simp] theorem setLatch_din_clk (b : Bool) (s : State) : (setLatch .din b s).clk = s.clk := rfl
@[simp] theorem setLatch_din_din (b : Bool) (s : State) : (setLatch .din b s).din = b := rfl
@[simp] theorem setLatch_din_msel (b : Bool) (s : State) : (setLatch .din b s).msel = s.msel := rfl
@[simp] theorem setLatch_msel_clk (b : Bool) (s : State) : (setLatch .msel b s).clk = s.clk := rfl
@[simp] theorem setLatch_msel_din (b : Bool) (s : State) : (setLatch .msel b s).din = s.din := rfl
@[simp] theorem setLatch_msel_msel (b : Bool) (s : State) : (setLatch .msel b s).msel = b := rfl

@[simp] theorem latch_setLatch_same (l : Line) (b : Bool) (s : State) : (setLatch l b s).latch l = b := by
  cases l <;> rfl

theorem latch_setLatch_other {l m : Line} (h : m ≠ l) (b : Bool) (s : State) :
    (setLatch l b s).latch m = s.latch m := by
  cases l <;> cases m <;> first | exact absurd rfl h | rfl

/-! ### `settle` and the trace -/

/-- `settle` lowers `BUSY` when nothing is left, and changes nothing else. -/
theorem settle_eq (s : State) : settle s = { s with busy := s.busy && !s.seq.isEmpty } := by
  obtain ⟨⟩ := s
  unfold settle
  split <;> simp_all

@[simp] theorem trace_emit (e : Event) (s : State) : (emit e s).trace = s.trace ++ [e] := by
  simp [State.trace]

/-- Reading the trace of a state whose events were extended by a list written newest first. -/
theorem trace_of_events {s t : State} {es : List Event} (h : t.events = es.reverse ++ s.events) :
    t.trace = s.trace ++ es := by
  simp [State.trace, h]

end Sys2Proof.Machine
end

