-- ==== Sys2Proof/Laws/Ops.lean ====
section
/-! SUPPORT. What each line operation, pulse shape and counted repetition does, said once as an equation. -/

namespace Sys2Proof.Machine

/-! ### Line operations -/

theorem driveLine_eq (l : Line) (b : Bool) (s : State) :
    driveLine l b s = emit (if b then .set l else .clr l) (setLatch l b s) := by
  cases b <;> rfl

theorem driveLine_din_eq (b : Bool) (s : State) :
    driveLine .din b s = { s with din := b, events := dinEvent b :: s.events } := by
  cases b <;> rfl

theorem lowPulse_eq (l : Line) (a b : Nat) (s : State) :
    lowPulse l a b s = { setLatch l true s with events := (lowPulseEvents l a b).reverse ++ s.events } := by
  cases l <;> rfl

theorem highPulse_eq (l : Line) (a b : Nat) (s : State) :
    highPulse l a b s = { setLatch l false s with events := (highPulseEvents l a b).reverse ++ s.events } := by
  cases l <;> rfl

/-! ### Counted repetition -/

@[simp] theorem times_zero (f : State → State) (s : State) : times 0 f s = s := rfl

@[simp] theorem times_succ (n : Nat) (f : State → State) (s : State) : times (n + 1) f s = times n f (f s) := rfl

/-- What every round of a repetition keeps, the repetition keeps. -/
theorem times_keeps {P : State → Prop} {f : State → State} (h : ∀ s, P s → P (f s)) (n : Nat) {s : State}
    (hs : P s) : P (times n f s) := by
  induction n generalizing s with
  | zero => exact hs
  | succ n ih => exact ih (h s hs)

theorem repeated_zero (es : List Event) : repeated 0 es = [] := rfl

theorem repeated_succ (n : Nat) (es : List Event) : repeated (n + 1) es = es ++ repeated n es := by
  simp [repeated, List.replicate_succ]

theorem repeated_succ_right (n : Nat) (es : List Event) : repeated (n + 1) es = repeated n es ++ es := by
  simp [repeated, List.replicate_succ']

/-- A repetition that counts `LOOP` down and otherwise ends each round with the same line at the same level. -/
theorem times_pulses_eq {body : State → State} {l : Line} {b : Bool} {es : List Event}
    (hb : ∀ s, body s = { setLatch l b s with events := es.reverse ++ s.events }) (n : Nat) (s : State) :
    times (n + 1) (fun t => body (countLoop t)) s =
      { setLatch l b s with
        loop := s.loop - BitVec.ofNat 16 (n + 1)
        events := (repeated (n + 1) es).reverse ++ s.events } := by
  induction n generalizing s with
  | zero =>
    have h1 : repeated (0 + 1) es = es := by simp [repeated_succ, repeated_zero]
    rw [times_succ, times_zero, hb, h1]
    cases l <;> rfl
  | succ n ih =>
    rw [times_succ, ih, hb, repeated_succ (n + 1)]
    have hl : s.loop - 1#16 - BitVec.ofNat 16 (n + 1) = s.loop - BitVec.ofNat 16 (n + 1 + 1) := by
      rw [BitVec.sub_sub]
      congr 1
      apply BitVec.eq_of_toNat_eq
      simp
      omega
    cases l <;> simpa [countLoop, setLatch] using hl

/-- `repeat n times` of a body that ends each round with one line at the same level: `LOOP` ends at 0. -/
theorem repeatLoop_pulses_eq {body : State → State} {l : Line} {b : Bool} {es : List Event}
    (hb : ∀ s, body s = { setLatch l b s with events := es.reverse ++ s.events }) {n : Nat} (hn : n ≠ 0)
    (s : State) :
    repeatLoop n body s =
      { setLatch l b s with loop := 0, events := (repeated n es).reverse ++ s.events } := by
  obtain ⟨k, rfl⟩ := Nat.exists_eq_succ_of_ne_zero hn
  unfold repeatLoop
  rw [times_pulses_eq hb]
  cases l <;> simp [setLatch]

theorem repeatLoop_lowPulse_eq (l : Line) (a b : Nat) {n : Nat} (hn : n ≠ 0) (s : State) :
    repeatLoop n (lowPulse l a b) s =
      { setLatch l true s with
        loop := 0, events := (repeated n (lowPulseEvents l a b)).reverse ++ s.events } :=
  repeatLoop_pulses_eq (lowPulse_eq l a b) hn s

/-! ### Refusal and hardware reset -/

theorem whenInitialized_of_ne {op : State → State} {s : State} (h : s.mode ≠ .uninitialized) :
    whenInitialized op s = op s := if_neg h

theorem whenInitialized_of_eq {op : State → State} {s : State} (h : s.mode = .uninitialized) :
    whenInitialized op s = refuse .notInitialized s := if_pos h

/-- What a guarded command can do: it is refused, or it runs. -/
theorem whenInitialized_cases (op : State → State) (s : State) :
    (s.mode = .uninitialized ∧ whenInitialized op s = refuse .notInitialized s) ∨
      (s.mode ≠ .uninitialized ∧ whenInitialized op s = op s) := by
  by_cases h : s.mode = .uninitialized
  · exact .inl ⟨h, whenInitialized_of_eq h⟩
  · exact .inr ⟨h, whenInitialized_of_ne h⟩

/-- Which commands are not refused: HANDSHAKE always, the others once initialised, SWITCHMODE to a legal target. -/
theorem refusalReason_eq_none {i : Instr} {m : Mode} (hm : i = .handshake ∨ m ≠ .uninitialized)
    (ht : ∀ t, i = .switchmode t → legalTarget t = true) : refusalReason i m = none := by
  cases i with
  | switchmode t =>
    have h := hm.resolve_left (by simp)
    exact (if_pos (ht t rfl)).trans (if_neg h)
  | reset => exact if_neg (hm.resolve_left (by simp))
  | check => exact if_neg (hm.resolve_left (by simp))
  | ping => exact if_neg (hm.resolve_left (by simp))
  | readflash a c => exact if_neg (hm.resolve_left (by simp))
  | _ => rfl

/-- `BadTarget` is checked first (60_exceptions.md R183). -/
theorem refusalReason_badTarget {t : Byte} (ht : legalTarget t = false) (m : Mode) :
    refusalReason (.switchmode t) m = some .badTarget := if_neg (by simp [ht])

theorem refusalReason_notInitialized {i : Instr} (hc : i.isCommand = true) (hh : i ≠ .handshake)
    (ht : ∀ t, i = .switchmode t → legalTarget t = true) :
    refusalReason i .uninitialized = some .notInitialized := by
  cases i with
  | handshake => exact absurd rfl hh
  | switchmode t => exact if_pos (ht t rfl)
  | reset => rfl
  | check => rfl
  | ping => rfl
  | readflash a c => rfl
  | _ => cases hc

theorem acceptOperands_of_none {i : Instr} {s : State} (h : refusalReason i s.mode = none) (w : Word) :
    acceptOperands i w s = latchOperands w s := by
  unfold acceptOperands
  rw [h]

theorem acceptOperands_of_some {i : Instr} {s : State} {r : RefuseReason} (h : refusalReason i s.mode = some r)
    (w : Word) : acceptOperands i w s = s := by
  unfold acceptOperands
  rw [h]

/-- Acceptance writes no field but the three latches. -/
theorem acceptOperands_eq (i : Instr) (w : Word) (s : State) :
    acceptOperands i w s = { s with
      addr := (acceptOperands i w s).addr, cb := (acceptOperands i w s).cb, tgt := (acceptOperands i w s).tgt } := by
  unfold acceptOperands
  split <;> rfl

@[simp] theorem acceptOperands_mode (i : Instr) (w : Word) (s : State) : (acceptOperands i w s).mode = s.mode := by
  rw [acceptOperands_eq]

theorem startOperation_of_none {i : Instr} {s : State} (h : refusalReason i s.mode = none) :
    startOperation i s = { s with busy := true, seq := [Item.start i] } := by
  unfold startOperation Item.first
  rw [h]

theorem startOperation_of_some {i : Instr} {s : State} {r : RefuseReason} (h : refusalReason i s.mode = some r) :
    startOperation i s = { s with busy := true, seq := [.refuse r] } := by
  unfold startOperation Item.first
  rw [h]

/-! ### Draws -/

@[simp] theorem drawAt_smpDout (s : State) (k : Nat) : (smpDout s).drawAt k = s.drawAt (k + 1) := by
  cases h : s.dout with
  | nil =>
    simp only [State.drawAt, smpDout_dout, smpDout_draws, h, List.tail_nil, List.getElem?_nil]
    congr 1
    omega
  | cons b r =>
    simp only [State.drawAt, smpDout_dout, smpDout_draws, h, List.tail_cons, List.getElem?_cons_succ]
    cases r[k]? with
    | some _ => rfl
    | none =>
      simp only
      congr 1
      omega

/-- The draws to come depend on the script and the sample index only. -/
theorem drawAt_congr {s t : State} (hd : t.dout = s.dout) (hn : t.draws = s.draws) (k : Nat) :
    t.drawAt k = s.drawAt k := by
  simp [State.drawAt, hd, hn]

end Sys2Proof.Machine
end

