-- ==== Sys2Proof/Laws/Transfer.lean ====
section
/-! SUPPORT. What each transfer primitive does, said once as an equation (41_transfer_primitives.md R119). -/

namespace Sys2Proof.Machine

theorem pulseClock_eq (s : State) :
    pulseClock s = { s with clk := false, events := pulseEvents.reverse ++ s.events } := rfl

theorem pulseClocks_eq {n : Nat} (hn : n ≠ 0) (s : State) :
    pulseClocks n s = { s with clk := false, loop := 0, events := (repeated n pulseEvents).reverse ++ s.events } :=
  repeatLoop_pulses_eq (l := .clk) (b := false) (es := pulseEvents) (fun _ => rfl) hn s

theorem sendBit_eq (v : Byte) (s : State) (i : Nat) :
    sendBit v s i =
      { s with
        bitn := BitVec.ofNat 3 i, din := v.getLsbD i, clk := false
        events := (slotEvents (v.getLsbD i)).reverse ++ s.events } := by
  unfold sendBit
  rw [pulseClock_eq, driveLine_din_eq]
  rfl

theorem sendBits_eq (v : Byte) (s : State) :
    sendBits v s =
      { s with
        bitn := 0, din := v.getLsbD 0, clk := false, events := (dataSlots v).reverse ++ s.events } := by
  unfold sendBits
  simp only [List.foldl_cons, List.foldl_nil, sendBit_eq]
  simp [dataSlots]

/-- `sendByteMSBFirst` (R112): one command frame; DIN and CLK end at 0. -/
theorem sendByteMSBFirst_eq (v : Byte) (s : State) :
    sendByteMSBFirst v s =
      { s with bitn := 0, din := false, clk := false, events := (commandFrame v).reverse ++ s.events } := by
  unfold sendByteMSBFirst
  rw [sendBits_eq, pulseClock_eq]
  simp [clrLine, emit, setLatch, commandFrame, slotEvents, dinEvent]

/-- `sendModeByte` (R113): one mode frame; DIN ends at bit 0 of the byte. -/
theorem sendModeByte_eq (v : Byte) (s : State) :
    sendModeByte v s =
      { s with bitn := 0, din := v.getLsbD 0, clk := false, events := (modeFrame v).reverse ++ s.events } := by
  unfold sendModeByte
  rw [sendBits_eq, pulseClock_eq, pulseClock_eq]
  simp [modeFrame]

/-- Several command frames in a row. -/
theorem sendBytes_eq {vs : List Byte} (hv : vs ≠ []) (s : State) :
    sendBytes vs s =
      { s with bitn := 0, din := false, clk := false, events := (commandFrames vs).reverse ++ s.events } := by
  induction vs generalizing s with
  | nil => exact absurd rfl hv
  | cons v r ih =>
    by_cases hr : r = []
    · subst hr
      simp [sendBytes, commandFrames, sendByteMSBFirst_eq]
    · have h := ih hr (sendByteMSBFirst v s)
      simp only [sendBytes, List.foldl_cons] at h ⊢
      rw [h, sendByteMSBFirst_eq]
      simp [commandFrames]

/-! ### The receiver -/

/-- One received bit: the pulse, the sample, and the bit ORed into `ACC` at its place. -/
theorem receiveBit_eq (s : State) {i : Nat} (hi : i < 8) :
    receiveBit s i =
      { s with
        bitn := BitVec.ofNat 3 i, clk := false
        acc := s.acc ||| (BitVec.setWidth 8 (BitVec.ofBool (s.drawAt 0)) <<< i)
        dout := s.dout.tail, draws := s.draws + 1
        events := .smp (s.drawAt 0) :: pulseEvents.reverse ++ s.events } := by
  have hm : i % 8 = i := Nat.mod_eq_of_lt hi
  unfold receiveBit sampleBit
  rw [pulseClock_eq]
  simp [smpDout, emit, State.drawAt, hm]

/-- The accumulator after the eight bits of a receive frame. -/
theorem accumulate_eq (f : Nat → Bool) :
    ([0, 1, 2, 3, 4, 5, 6, 7].foldl
      (fun (a : Byte) i => a ||| (BitVec.setWidth 8 (BitVec.ofBool (f i)) <<< i)) 0) = byteOfSamples f := by
  simp only [byteOfSamples, List.range, List.range.loop, List.foldl_cons, List.foldl_nil]
  generalize f 0 = b0
  generalize f 1 = b1
  generalize f 2 = b2
  generalize f 3 = b3
  generalize f 4 = b4
  generalize f 5 = b5
  generalize f 6 = b6
  generalize f 7 = b7
  revert b0 b1 b2 b3 b4 b5 b6 b7
  decide

/-- After `n` samples the script and the index have moved on by `n`. -/
theorem drawAt_drop {s t : State} {n : Nat} (hd : t.dout = s.dout.drop n) (hn : t.draws = s.draws + n) (k : Nat) :
    t.drawAt k = s.drawAt (n + k) := by
  simp [State.drawAt, hd, hn, List.getElem?_drop, Nat.add_assoc]

/-- `receiveByte` (R114): one receive frame; the byte of the next eight draws is left in `ACC`. -/
theorem receiveByte_eq (s : State) :
    receiveByte s =
      { s with
        bitn := 7, din := false, clk := false, acc := s.incoming 0
        dout := s.dout.drop 8, draws := s.draws + 8
        events := (receiveFrame fun i => s.drawAt i).reverse ++ s.events } := by
  have hacc : s.incoming 0 = byteOfSamples fun i => s.drawAt i := by simp [State.incoming]
  rw [hacc, ← accumulate_eq]
  unfold receiveByte
  simp only [List.foldl_cons, List.foldl_nil, receiveBit_eq _ (by decide : 0 < 8), receiveBit_eq _ (by decide : 1 < 8),
    receiveBit_eq _ (by decide : 2 < 8), receiveBit_eq _ (by decide : 3 < 8), receiveBit_eq _ (by decide : 4 < 8),
    receiveBit_eq _ (by decide : 5 < 8), receiveBit_eq _ (by decide : 6 < 8), receiveBit_eq _ (by decide : 7 < 8),
    pulseClock_eq]
  have hd : s.dout.tail.tail.tail.tail.tail.tail.tail.tail = s.dout.drop 8 := by
    simp only [← List.drop_one, List.drop_drop]
  simp [State.drawAt, clrLine, emit, setLatch, receiveFrame, List.range, List.range.loop, List.flatMap, hd]

end Sys2Proof.Machine
end

