-- ==== Sys2Proof/Laws/Operations.lean ====
section
/-! SUPPORT. What each operation does, said once as an equation: the fields it writes and the events it emits. -/

namespace Sys2Proof.Machine

/-- The first configuration of the lines and a repeated one differ only in the levels before the first drives. -/
theorem cfgLines_then_idle (s : State) :
    setLine .msel (setLine .din (setLine .clk (cfgLines s))) =
      { s with
        oe := true, clk := true, din := true, msel := true
        freeLatches := if s.oe then s.freeLatches else s.freeLatches + 1
        events := [.set .msel, .set .din, .set .clk, .cfg] ++ s.events } := by
  unfold cfgLines
  split
  · rename_i h
    simp [setLine, emit, setLatch, h]
  · simp [setLine, emit, setLatch, *]

theorem handshakeWake_eq (s : State) :
    handshakeWake s =
      { s with
        oe := true, clk := true, din := true, msel := true
        freeLatches := if s.oe then s.freeLatches else s.freeLatches + 1
        events := (wakeEvents ++ lowPulseEvents .clk 1 50).reverse ++ s.events } := by
  unfold handshakeWake
  rw [cfgLines_then_idle, lowPulse_eq]
  simp [waitUs, emit, setLatch, wakeEvents, lowPulseEvents, tSettle, tWakeLow, tWakeHigh]

theorem handshakeTrains_eq (s : State) :
    handshakeTrains s =
      { s with
        clk := true, din := true, msel := true, loop := 0
        events := (repeated 165 (lowPulseEvents .msel 2 2) ++ repeated 105 (lowPulseEvents .din 2 2)
          ++ repeated 90 (lowPulseEvents .clk 2 2) ++ repeated 25600 (lowPulseEvents .msel 2 2)).reverse
          ++ s.events } := by
  unfold handshakeTrains
  rw [repeatLoop_lowPulse_eq .msel tSync tSync (n := nSyncMsel) (by decide),
    repeatLoop_lowPulse_eq .din tSync tSync (n := nSyncDin) (by decide),
    repeatLoop_lowPulse_eq .clk tSync tSync (n := nSyncClk) (by decide),
    repeatLoop_lowPulse_eq .msel tSync tSync (n := handshakeSyncPulses) (by decide)]
  simp only [setLatch, nSyncMsel, nSyncDin, nSyncClk, handshakeSyncPulses, tSync, List.reverse_append,
    List.append_assoc]

theorem handshakeMode_eq (s : State) :
    handshakeMode s =
      { s with
        clk := true, din := false, msel := false, bitn := 0
        events := (preModeEvents ++ modeFrame 0x96 ++ raiseClkEvents).reverse ++ s.events } := by
  unfold handshakeMode
  rw [sendModeByte_eq]
  simp [waitUs, emit, clrLine, setLine, setLatch, preModeEvents, raiseClkEvents, tPreMode, tStep, MODE_ICP]

theorem handshakeFinal_eq (s : State) :
    handshakeFinal s =
      { s with
        clk := true, msel := false, loop := 0
        events := (repeated 25600 (lowPulseEvents .clk 2 2) ++ highPulseEvents .msel 5 5).reverse ++ s.events } := by
  unfold handshakeFinal
  rw [repeatLoop_lowPulse_eq .clk tSync tSync (n := handshakeSyncPulses) (by decide), highPulse_eq]
  simp only [setLatch, handshakeSyncPulses, tSync, tFinal, List.reverse_append, List.append_assoc]

/-- HANDSHAKE (42_entry_handshake.md R120). -/
theorem runHandshake_eq (s : State) :
    runHandshake s =
      { s with
        mode := .modeReset, oe := true, clk := true, din := false, msel := false, bitn := 0, loop := 0
        freeLatches := if s.oe then s.freeLatches else s.freeLatches + 1
        events := handshakeTrace.reverse ++ s.events } := by
  unfold runHandshake
  rw [handshakeFinal_eq, handshakeMode_eq, handshakeTrains_eq, handshakeWake_eq]
  simp only [handshakeTrace, List.flatten_cons, List.flatten_nil, List.append_nil, List.reverse_append,
    List.append_assoc]

/-- The AltMode branch of RESET (43_mode_switch.md R131). -/
theorem resetFromAlt_eq (s : State) :
    resetFromAlt s =
      { s with
        mode := .modeReset, clk := true, msel := false, loop := 0
        events := (resetTrace .altMode).reverse ++ s.events } := by
  unfold resetFromAlt
  rw [repeatLoop_lowPulse_eq .clk tStep tStep (n := nAltReset) (by decide)]
  simp [clrLine, setLine, emit, setLatch, resetTrace, nAltReset, tStep]

/-- The IcpMode branch of RESET (R132). -/
theorem resetFromIcp_eq (s : State) :
    resetFromIcp s =
      { s with
        mode := .modeReset, clk := true, msel := false, events := (resetTrace .icpMode).reverse ++ s.events } := by
  unfold resetFromIcp
  rw [highPulse_eq]
  simp [setLine, emit, setLatch, resetTrace, highPulseEvents, tStep]

/-- What RESET can do, by mode (R130 to R134). -/
theorem runReset_eq (s : State) :
    runReset s =
      match s.mode with
      | .uninitialized => { s with err := true, refusal := some .notInitialized }
      | .modeReset => s
      | .altMode =>
        { s with
          mode := .modeReset, clk := true, msel := false, loop := 0
          events := (resetTrace .altMode).reverse ++ s.events }
      | .icpMode =>
        { s with
          mode := .modeReset, clk := true, msel := false
          events := (resetTrace .icpMode).reverse ++ s.events } := by
  unfold runReset
  cases h : s.mode
  · simp [refuse, h]
  · rfl
  · exact resetFromIcp_eq s
  · exact resetFromAlt_eq s

theorem runReset_of_modeReset {s : State} (h : s.mode = .modeReset) : runReset s = s := by
  simp [runReset, h]

/-- PING (44_probes.md R151). -/
theorem runPing_eq (s : State) :
    runPing s =
      { s with clk := false, din := false, bitn := 0, events := pingTrace.reverse ++ s.events } := by
  unfold runPing
  rw [sendByteMSBFirst_eq, sendByteMSBFirst_eq]
  simp [pingTrace, OP_PING, FILL_FF]

/-- The entry into IcpMode (43_mode_switch.md R135, R136). -/
theorem enterMode_icp_eq (s : State) :
    enterMode MODE_ICP s =
      { s with
        mode := .icpMode, clk := false, din := false, bitn := 0
        events := enterIcpTrace.reverse ++ s.events } := by
  simp only [enterMode, icpTail, if_true, sendModeByte_eq, runPing_eq]
  simp [modeOfTarget, waitUs, emit, clrLine, setLine, setLatch, enterIcpTrace, lowerClkEvents, icpEntryEvents,
    tIcpEntry, tStep, MODE_ICP]

/-- The entry into AltMode (R135, R138). -/
theorem enterMode_alt_eq (s : State) :
    enterMode MODE_ALT s =
      { s with
        mode := .altMode, clk := false, din := true, msel := false, bitn := 0, loop := 0
        events := enterAltTrace.reverse ++ s.events } := by
  have hne : MODE_ALT ≠ MODE_ICP := by decide
  simp only [enterMode, altTail, modeOfTarget, if_neg hne, sendModeByte_eq,
    pulseClocks_eq (n := nAltA) (by decide), pulseClocks_eq (n := nAltB) (by decide)]
  simp [waitUs, emit, clrLine, setLine, setLatch, enterAltTrace, lowerClkEvents, nAltA, nAltB, tStep, MODE_ALT]

/-- SWITCHMODE after its checks: nothing, or the entry after RESET. -/
theorem switchTo_of_ne {t : Byte} {s : State} (h : s.mode.code ≠ t) :
    switchTo t s = enterMode t (runReset s) := by
  unfold switchTo
  rw [if_neg h]
  split
  · rename_i hm
    simp [runReset, hm]
  · rfl

theorem switchTo_of_eq {t : Byte} {s : State} (h : s.mode.code = t) : switchTo t s = s := if_pos h

theorem runSwitch_of_legal {t : Byte} {s : State} (ht : legalTarget t = true) (hs : s.mode ≠ .uninitialized) :
    runSwitch t s = switchTo t s := by
  unfold runSwitch
  rw [if_pos ht, whenInitialized_of_ne hs]

/-- CHECK (44_probes.md R150). -/
theorem runCheck_eq (s : State) :
    runCheck s =
      { s with
        chk := s.incoming 0 == 0x69, chkValid := true, clk := false, din := false
        dout := s.dout.drop 16, draws := s.draws + 16, acc := s.incoming 1, bitn := 7
        events := (checkSends ++ receiveFrames s 2).reverse ++ s.events } := by
  simp only [runCheck, sendBytes_eq (vs := checkBytes) (by decide), receiveByte_eq]
  simp [writeChk, clrLine, emit, setLatch, State.incoming, State.drawAt, receiveFrames, checkSends, checkBytes, checkPrefix,
    List.range, List.range.loop, List.getElem?_drop, Nat.add_assoc, CHECK_ECHO, OP_PROBE, ICP_ADDRESS_7B0,
    ICP_ADDRESS_15B8, FILL_FF]

/-! ### The data phase of READFLASH -/

/-- The read buffer after the next `n` received bytes have been stored in ascending order. -/
def bufferAfter (s : State) (n : Nat) : Memory :=
  (List.range n).foldl (fun m k => m.write k (s.incoming k)) s.rbuf

theorem bufferAfter_succ (s : State) (n : Nat) :
    bufferAfter s (n + 1) = (bufferAfter s n).write n (s.incoming n) := by
  simp [bufferAfter, List.range_succ]

theorem bufferAfter_wf {s : State} (h : s.rbuf.wf = true) {n : Nat} (hn : n ≤ blockLen) :
    (bufferAfter s n).wf = true := by
  induction n with
  | zero => exact h
  | succ n ih =>
    rw [bufferAfter_succ]
    exact memory_write_wf (ih (by omega)) (by omega) _

theorem bufferAfter_read_above (s : State) {n a : Nat} (ha : n ≤ a) :
    (bufferAfter s n).read a = s.rbuf.read a := by
  induction n with
  | zero => rfl
  | succ n ih => rw [bufferAfter_succ, memory_read_write_other _ (by omega), ih (by omega)]

theorem bufferAfter_read_below {s : State} (h : s.rbuf.wf = true) {n k : Nat} (hn : n ≤ blockLen) (hk : k < n) :
    (bufferAfter s n).read k = s.incoming k := by
  induction n with
  | zero => omega
  | succ n ih =>
    rw [bufferAfter_succ]
    by_cases hkn : k = n
    · subst hkn
      exact memory_read_write_same (bufferAfter_wf h (by omega)) k _
    · rw [memory_read_write_other _ hkn, ih (by omega) (by omega)]

theorem receiveFrames_succ (s : State) (n : Nat) :
    receiveFrames s (n + 1) = receiveFrames s n ++ receiveFrame fun i => s.drawAt (8 * n + i) := by
  simp [receiveFrames, List.range_succ]

theorem receiveInto_eq (s : State) (k : Nat) :
    receiveInto s k =
      { s with
        byten := BitVec.ofNat 4 k, rbuf := s.rbuf.write k (s.incoming 0), acc := s.incoming 0, bitn := 7
        din := false, clk := false, dout := s.dout.drop 8, draws := s.draws + 8
        events := (receiveFrame fun i => s.drawAt i).reverse ++ s.events } := by
  simp only [receiveInto, receiveByte_eq]
  simp [State.incoming, State.drawAt]

/-- Receive frames in ascending order, at least one (45_flash_read.md R165). -/
theorem receiveInto_range_eq (s : State) (n : Nat) :
    (List.range (n + 1)).foldl receiveInto s =
      { s with
        byten := BitVec.ofNat 4 n, rbuf := bufferAfter s (n + 1), acc := s.incoming n, bitn := 7
        din := false, clk := false, dout := s.dout.drop (8 * (n + 1)), draws := s.draws + 8 * (n + 1)
        events := (receiveFrames s (n + 1)).reverse ++ s.events } := by
  induction n with
  | zero =>
    simp only [List.range_succ, List.range_zero, List.nil_append, List.foldl_cons, List.foldl_nil, receiveInto_eq]
    simp [bufferAfter, receiveFrames, List.range_succ]
  | succ n ih =>
    rw [List.range_succ, List.foldl_append, ih, List.foldl_cons, List.foldl_nil, receiveInto_eq,
      bufferAfter_succ s (n + 1), receiveFrames_succ s (n + 1)]
    simp [State.incoming, State.drawAt, List.getElem?_drop, Nat.add_assoc, Nat.mul_add]

theorem receiveBlock_eq (s : State) :
    receiveBlock s =
      { s with
        byten := 15, rbuf := bufferAfter s 16, rbufValid := true, acc := s.incoming 15, bitn := 7
        din := false, clk := false, dout := s.dout.drop 128, draws := s.draws + 128
        events := (receiveFrames s 16).reverse ++ s.events } := by
  have h := receiveInto_range_eq s 15
  simp only [Nat.reduceAdd, Nat.reduceMul] at h
  simp only [receiveBlock, blockLen, h]
  rfl

theorem commandFrames_readBytes (c : ChipConfig) (addr : Addr24) (cb : Bool) :
    commandFrames (readBytes c addr cb) = readflashSends c addr cb := by
  have h0 : addrByte addr 0 = addr.extractLsb' 0 8 := rfl
  have h1 : addrByte addr 1 = addr.extractLsb' 8 8 := rfl
  have h2 : addrByte addr 2 = addr.extractLsb' 16 8 := rfl
  simp only [readBytes, readflashSends, commandFrames, preambleBytes, h0, h1, h2, readOpcodeOf]
  cases c.extraPreamble <;> cases c.addrHighField <;> cases cb <;>
    simp [ICP_ADDRESS_7B0, ICP_ADDRESS_15B8, ICP_ADDRESS_23B16, ICP_READ, ICP_READ_CUSTOM_BLOCK, OP_PRE, PRE_FE,
      FILL_FF]

theorem readBytes_ne_nil (c : ChipConfig) (addr : Addr24) (cb : Bool) : readBytes c addr cb ≠ [] := by
  simp [readBytes]

/-- After RESET from an initialised mode SWITCHMODE is never a no-op (R161). -/
theorem resync_eq {s : State} (h : s.mode ≠ .uninitialized) :
    runSwitch MODE_ICP (runReset s) =
      { runReset s with
        mode := .icpMode, clk := false, din := false, bitn := 0
        events := enterIcpTrace.reverse ++ (runReset s).events } := by
  have hm : (runReset s).mode = .modeReset := by
    rw [runReset_eq]
    cases hs : s.mode <;> simp_all
  rw [runSwitch_of_legal (by decide) (by rw [hm]; decide), switchTo_of_ne (by rw [hm]; decide)]
  rw [runReset_of_modeReset hm, enterMode_icp_eq]

/-- READFLASH (45_flash_read.md R160). -/
theorem runReadflash_eq (addr : Addr24) (cb : Bool) {s : State} (h : s.mode ≠ .uninitialized) :
    runReadflash addr cb s =
      { s with
        mode := .icpMode, clk := false, din := false
        msel := if s.mode = .modeReset then s.msel else false
        loop := if s.mode = .altMode then 0 else s.loop
        rbuf := bufferAfter s 16, rbufValid := true, dout := s.dout.drop 128, draws := s.draws + 128
        acc := s.incoming 15, bitn := 7, byten := 15
        events := (resetTrace s.mode ++ enterIcpTrace ++ readflashSends s.cfg addr cb ++ receiveFrames s 16).reverse
          ++ s.events } := by
  unfold runReadflash
  rw [resync_eq h, sendBytes_eq (readBytes_ne_nil _ _ _), receiveBlock_eq, commandFrames_readBytes, runReset_eq]
  cases hs : s.mode
  · exact absurd hs h
  · simp [resetTrace, bufferAfter, State.incoming, State.drawAt, receiveFrames]
  · simp [resetTrace, bufferAfter, State.incoming, State.drawAt, receiveFrames]
  · simp [resetTrace, bufferAfter, State.incoming, State.drawAt, receiveFrames]

end Sys2Proof.Machine
end

