-- ==== Sys2Proof/Laws/Trace.lean ====
section
/-! SUPPORT. The derived views of the trace (00_scope.md R12) on appended lists, repetitions, shapes and frames. -/

namespace Sys2Proof.Machine

/-! ### Minimum time and samples -/

theorem waitSum_append (a b : List Event) : waitSum (a ++ b) = waitSum a + waitSum b := by
  induction a with
  | nil => simp [waitSum]
  | cons e r ih => cases e <;> simp [waitSum, ih, Nat.add_assoc]

theorem samplesOf_append (a b : List Event) : samplesOf (a ++ b) = samplesOf a ++ samplesOf b := by
  induction a with
  | nil => simp [samplesOf]
  | cons e r ih => cases e <;> simp [samplesOf, ih]

theorem waitSum_repeated (n : Nat) (es : List Event) : waitSum (repeated n es) = n * waitSum es := by
  induction n with
  | zero => simp [repeated, waitSum]
  | succ n ih =>
    rw [repeated_succ, waitSum_append, ih]
    ring

theorem samplesOf_repeated (n : Nat) {es : List Event} (h : samplesOf es = []) : samplesOf (repeated n es) = [] := by
  induction n with
  | zero => simp [repeated, samplesOf]
  | succ n ih => rw [repeated_succ, samplesOf_append, ih, h, List.append_nil]

theorem length_repeated (n : Nat) (es : List Event) : (repeated n es).length = n * es.length := by
  simp [repeated]

/-! ### Pulses -/

/-- No pulse is cut at the end of the list, so the pulses of what follows simply add up. -/
def PulsesEnd (a : List Event) : Prop := ∀ b, pulseCount (a ++ b) = pulseCount a + pulseCount b

theorem pulsesEnd_nil : PulsesEnd [] := fun b => by simp [pulseCount]

theorem PulsesEnd.append {a b : List Event} (ha : PulsesEnd a) (hb : PulsesEnd b) : PulsesEnd (a ++ b) := by
  intro c
  rw [List.append_assoc, ha, hb, ha b, Nat.add_assoc]

/-- An event that does not raise CLK starts no pulse. -/
theorem pulseCount_cons {e : Event} (h : e ≠ .set .clk) (es : List Event) :
    pulseCount (e :: es) = pulseCount es := by
  cases e with
  | set l => cases l <;> first | exact absurd rfl h | simp [pulseCount]
  | cfg => simp [pulseCount]
  | clr l => simp [pulseCount]
  | wait n => simp [pulseCount]
  | smp b => simp [pulseCount]

theorem PulsesEnd.cons {e : Event} (h : e ≠ .set .clk) {es : List Event} (he : PulsesEnd es) :
    PulsesEnd (e :: es) := by
  intro c
  rw [List.cons_append, pulseCount_cons h, pulseCount_cons h, he]

theorem PulsesEnd.repeated {a : List Event} (ha : PulsesEnd a) (n : Nat) : PulsesEnd (repeated n a) := by
  induction n with
  | zero => exact pulsesEnd_nil
  | succ n ih =>
    rw [repeated_succ]
    exact ha.append ih

theorem pulseCount_repeated {a : List Event} (ha : PulsesEnd a) (n : Nat) :
    pulseCount (Machine.repeated n a) = n * pulseCount a := by
  induction n with
  | zero => simp [Machine.repeated, pulseCount]
  | succ n ih =>
    rw [repeated_succ, ha, ih]
    ring

theorem pulsesEnd_lowPulse (l : Line) (a : Nat) {b : Nat} (h : b ≠ 1) : PulsesEnd (lowPulseEvents l a b) := by
  intro c
  cases l <;> simp [lowPulseEvents, pulseCount, h]

theorem pulseCount_lowPulse (l : Line) (a b : Nat) : pulseCount (lowPulseEvents l a b) = 0 := by
  cases l <;> simp [lowPulseEvents, pulseCount]

theorem pulsesEnd_pulse : PulsesEnd pulseEvents := fun c => by
  simp only [pulseEvents, List.cons_append, List.nil_append, pulseCount]
  ring

theorem pulsesEnd_slot (b : Bool) : PulsesEnd (slotEvents b) := by
  cases b
  · exact pulsesEnd_pulse.cons (by simp [dinEvent])
  · exact pulsesEnd_pulse.cons (by simp [dinEvent])

/-! ### Slots and frames -/

theorem pulseCount_slot (b : Bool) : pulseCount (slotEvents b) = 1 := by cases b <;> rfl

theorem waitSum_slot (b : Bool) : waitSum (slotEvents b) = 2 := by cases b <;> rfl

theorem samplesOf_slot (b : Bool) : samplesOf (slotEvents b) = [] := by cases b <;> rfl

theorem length_slot (b : Bool) : (slotEvents b).length = 5 := by cases b <;> rfl

theorem pulsesEnd_dataSlots (v : Byte) : PulsesEnd (dataSlots v) :=
  (((((((pulsesEnd_slot _).append (pulsesEnd_slot _)).append (pulsesEnd_slot _)).append (pulsesEnd_slot _)).append
    (pulsesEnd_slot _)).append (pulsesEnd_slot _)).append (pulsesEnd_slot _)).append (pulsesEnd_slot _)

theorem pulseCount_dataSlots (v : Byte) : pulseCount (dataSlots v) = 8 := by
  simp only [dataSlots, List.append_assoc, pulsesEnd_slot _ _, pulseCount_slot]

theorem waitSum_dataSlots (v : Byte) : waitSum (dataSlots v) = 16 := by
  simp only [dataSlots, waitSum_append, waitSum_slot]

theorem samplesOf_dataSlots (v : Byte) : samplesOf (dataSlots v) = [] := by
  simp only [dataSlots, samplesOf_append, samplesOf_slot, List.append_nil]

theorem length_dataSlots (v : Byte) : (dataSlots v).length = 40 := by
  simp only [dataSlots, List.length_append, length_slot]

theorem pulsesEnd_commandFrame (v : Byte) : PulsesEnd (commandFrame v) :=
  (pulsesEnd_dataSlots v).append (pulsesEnd_slot _)

theorem pulseCount_commandFrame (v : Byte) : pulseCount (commandFrame v) = 9 := by
  rw [commandFrame, pulsesEnd_dataSlots, pulseCount_dataSlots, pulseCount_slot]

theorem waitSum_commandFrame (v : Byte) : waitSum (commandFrame v) = 18 := by
  rw [commandFrame, waitSum_append, waitSum_dataSlots, waitSum_slot]

theorem samplesOf_commandFrame (v : Byte) : samplesOf (commandFrame v) = [] := by
  rw [commandFrame, samplesOf_append, samplesOf_dataSlots, samplesOf_slot, List.append_nil]

theorem length_commandFrame (v : Byte) : (commandFrame v).length = 45 := by
  rw [commandFrame, List.length_append, length_dataSlots, length_slot]

theorem pulsesEnd_modeFrame (v : Byte) : PulsesEnd (modeFrame v) :=
  ((pulsesEnd_dataSlots v).append pulsesEnd_pulse).append pulsesEnd_pulse

theorem pulseCount_modeFrame (v : Byte) : pulseCount (modeFrame v) = 10 := by
  rw [modeFrame, (pulsesEnd_dataSlots v).append pulsesEnd_pulse, pulsesEnd_dataSlots, pulseCount_dataSlots]
  rfl

theorem waitSum_modeFrame (v : Byte) : waitSum (modeFrame v) = 20 := by
  rw [modeFrame, waitSum_append, waitSum_append, waitSum_dataSlots]
  rfl

theorem samplesOf_modeFrame (v : Byte) : samplesOf (modeFrame v) = [] := by
  rw [modeFrame, samplesOf_append, samplesOf_append, samplesOf_dataSlots]
  rfl

theorem length_modeFrame (v : Byte) : (modeFrame v).length = 48 := by
  rw [modeFrame, List.length_append, List.length_append, length_dataSlots]
  rfl

theorem pulsesEnd_receiveFrame (f : Nat → Bool) : PulsesEnd (receiveFrame f) := by
  intro c
  simp only [receiveFrame, List.range, List.range.loop, List.flatMap_cons, List.flatMap_nil, pulseEvents,
    List.cons_append, List.nil_append, pulseCount]
  ring

theorem pulseCount_receiveFrame (f : Nat → Bool) : pulseCount (receiveFrame f) = 9 := by
  simp [receiveFrame, List.range, List.range.loop, pulseEvents, pulseCount]

theorem waitSum_receiveFrame (f : Nat → Bool) : waitSum (receiveFrame f) = 18 := by
  simp [receiveFrame, List.range, List.range.loop, pulseEvents, waitSum]

theorem samplesOf_receiveFrame (f : Nat → Bool) : samplesOf (receiveFrame f) = (List.range 8).map f := by
  simp [receiveFrame, List.range, List.range.loop, pulseEvents, samplesOf]

theorem length_receiveFrame (f : Nat → Bool) : (receiveFrame f).length = 45 := by
  simp [receiveFrame, List.range, List.range.loop, pulseEvents]

end Sys2Proof.Machine
end

