-- ==== Sys2Proof/Laws/Exec.lean ====
section
/-! SUPPORT. What `exec` answers for each instruction, as an equation, and the ways SWITCHMODE can go. -/

namespace Sys2Proof.Machine

/-! ### Host commands -/

theorem exec_handshake (s : State) : exec .handshake s = .next (runHandshake s) := rfl

theorem exec_reset (s : State) : exec .reset s = .next (runReset s) := rfl

theorem exec_switchmode (t : Byte) (s : State) : exec (.switchmode t) s = .next (runSwitch t s) := rfl

theorem exec_check (s : State) : exec .check s = .next (whenInitialized runCheck s) := rfl

theorem exec_ping (s : State) : exec .ping s = .next (whenInitialized runPing s) := rfl

theorem exec_readflash (a : Addr24) (c : Bool) (s : State) :
    exec (.readflash a c) s = .next (whenInitialized (runReadflash a c) s) := rfl

/-- A command that is refused ends in the refusal (60_exceptions.md R182, R183), whatever the latches hold. -/
theorem exec_of_refused {i : Instr} {r : RefuseReason} {s : State} (h : refusalReason i s.mode = some r) :
    exec i s = .next (refuse r s) := by
  have hguard : ∀ (op : State → State),
      (if s.mode = .uninitialized then some RefuseReason.notInitialized else none) = some r →
      whenInitialized op s = refuse r s := by
    intro op h
    by_cases hm : s.mode = .uninitialized
    · rw [if_pos hm] at h
      rw [whenInitialized_of_eq hm, Option.some.inj h]
    · rw [if_neg hm] at h
      cases h
  cases i with
  | reset =>
    by_cases hm : s.mode = .uninitialized
    · have hr : some RefuseReason.notInitialized = some r := (if_pos hm).symm.trans h
      rw [exec_reset, ← Option.some.inj hr]
      unfold runReset
      rw [hm]
    · exact absurd ((if_neg hm).symm.trans h) (by simp)
  | switchmode t =>
    rw [exec_switchmode]
    unfold runSwitch
    by_cases ht : legalTarget t = true
    · rw [if_pos ht, hguard _ ((if_pos ht).symm.trans h)]
    · rw [if_neg ht, Option.some.inj ((if_neg ht).symm.trans h)]
  | check => rw [exec_check, hguard _ h]
  | ping => rw [exec_ping, hguard _ h]
  | readflash a c => rw [exec_readflash, hguard _ h]
  | _ => cases h

/-- No instruction stops (60_exceptions.md R180). -/
theorem exec_next (i : Instr) (s : State) : ∃ t, exec i s = .next t := by
  cases i <;> exact ⟨_, rfl⟩

/-! ### Wire values -/

/-- A wire value records its frame and leaves CLK low; nothing else but DIN and `BITN` changes, and it does so
alike from every state. -/
theorem exec_wire {i : Instr} (h : i.isCommand = false) :
    ∃ (d : Bool) (es : List Event), samplesOf es = [] ∧
      ∀ s, exec i s = .next { s with bitn := 0, din := d, clk := false, events := es.reverse ++ s.events } := by
  cases i with
  | handshake => cases h
  | reset => cases h
  | switchmode t => cases h
  | check => cases h
  | ping => cases h
  | readflash a c => cases h
  | icpAddress7b0 =>
    exact ⟨false, commandFrame ICP_ADDRESS_7B0, samplesOf_commandFrame _, fun s => by
      rw [← sendByteMSBFirst_eq]; rfl⟩
  | icpAddress15b8 =>
    exact ⟨false, commandFrame ICP_ADDRESS_15B8, samplesOf_commandFrame _, fun s => by
      rw [← sendByteMSBFirst_eq]; rfl⟩
  | icpAddress23b16 =>
    exact ⟨false, commandFrame ICP_ADDRESS_23B16, samplesOf_commandFrame _, fun s => by
      rw [← sendByteMSBFirst_eq]; rfl⟩
  | icpRead =>
    exact ⟨false, commandFrame ICP_READ, samplesOf_commandFrame _, fun s => by
      rw [← sendByteMSBFirst_eq]; rfl⟩
  | icpWrite =>
    exact ⟨false, commandFrame ICP_WRITE, samplesOf_commandFrame _, fun s => by
      rw [← sendByteMSBFirst_eq]; rfl⟩
  | icpReadCustomBlock =>
    exact ⟨false, commandFrame ICP_READ_CUSTOM_BLOCK, samplesOf_commandFrame _, fun s => by
      rw [← sendByteMSBFirst_eq]; rfl⟩
  | modeIcp =>
    exact ⟨MODE_ICP.getLsbD 0, modeFrame MODE_ICP, samplesOf_modeFrame _, fun s => by
      rw [← sendModeByte_eq]; rfl⟩
  | modeAlt =>
    exact ⟨MODE_ALT.getLsbD 0, modeFrame MODE_ALT, samplesOf_modeFrame _, fun s => by
      rw [← sendModeByte_eq]; rfl⟩
  | opProbe =>
    exact ⟨false, commandFrame OP_PROBE, samplesOf_commandFrame _, fun s => by
      rw [← sendByteMSBFirst_eq]; rfl⟩
  | opPing =>
    exact ⟨false, commandFrame OP_PING, samplesOf_commandFrame _, fun s => by
      rw [← sendByteMSBFirst_eq]; rfl⟩
  | opPre =>
    exact ⟨false, commandFrame OP_PRE, samplesOf_commandFrame _, fun s => by
      rw [← sendByteMSBFirst_eq]; rfl⟩

/-- One row of a decoder written as a chain of tests. -/
theorem ok_of_row {c : Prop} [Decidable c] {i j : Instr} {e : Except DecodeError Instr}
    (h : (if c then .ok j else e) = .ok i) : (c ∧ j = i) ∨ e = .ok i := by
  by_cases hc : c
  · rw [if_pos hc] at h
    exact .inl ⟨hc, Except.ok.inj h⟩
  · rw [if_neg hc] at h
    exact .inr h

/-- A byte that decodes to a wire value runs in the frame its row names (30_encoding.md R78). -/
theorem exec_of_decode_wire {b : Byte} {i : Instr} (h : decode (.wire b) = .ok i) (s : State) :
    exec i s = .next (if isModeValue b then sendModeByte b s else sendByteMSBFirst b s) := by
  rcases ok_of_row h with ⟨rfl, rfl⟩ | h
  · rfl
  rcases ok_of_row h with ⟨rfl, rfl⟩ | h
  · rfl
  rcases ok_of_row h with ⟨rfl, rfl⟩ | h
  · rfl
  rcases ok_of_row h with ⟨rfl, rfl⟩ | h
  · rfl
  rcases ok_of_row h with ⟨rfl, rfl⟩ | h
  · rfl
  rcases ok_of_row h with ⟨rfl, rfl⟩ | h
  · rfl
  rcases ok_of_row h with ⟨rfl, rfl⟩ | h
  · rfl
  rcases ok_of_row h with ⟨rfl, rfl⟩ | h
  · rfl
  rcases ok_of_row h with ⟨rfl, rfl⟩ | h
  · rfl
  rcases ok_of_row h with ⟨rfl, rfl⟩ | h
  · rfl
  rcases ok_of_row h with ⟨rfl, rfl⟩ | h
  · rfl
  exact nomatch h

/-! ### RESET and SWITCHMODE -/

theorem runReset_mode {s : State} (h : s.mode ≠ .uninitialized) : (runReset s).mode = .modeReset := by
  rw [runReset_eq]
  cases hs : s.mode <;> simp_all

/-- The ways SWITCHMODE can go (43_mode_switch.md R135 to R140). -/
theorem runSwitch_cases (t : Byte) (s : State) :
    (legalTarget t = false ∧ runSwitch t s = refuse .badTarget s) ∨
    (legalTarget t = true ∧ s.mode = .uninitialized ∧ runSwitch t s = refuse .notInitialized s) ∨
    (legalTarget t = true ∧ s.mode ≠ .uninitialized ∧ s.mode.code = t ∧ runSwitch t s = s) ∨
    (t = MODE_ICP ∧ s.mode ≠ .uninitialized ∧ s.mode.code ≠ t ∧ runSwitch t s = enterMode MODE_ICP (runReset s)) ∨
    (t = MODE_ALT ∧ s.mode ≠ .uninitialized ∧ s.mode.code ≠ t ∧ runSwitch t s = enterMode MODE_ALT (runReset s)) := by
  by_cases hl : legalTarget t = true
  · by_cases hm : s.mode = .uninitialized
    · refine .inr (.inl ⟨hl, hm, ?_⟩)
      unfold runSwitch
      rw [if_pos hl, whenInitialized_of_eq hm]
    · refine .inr (.inr ?_)
      rw [runSwitch_of_legal hl hm]
      by_cases hc : s.mode.code = t
      · exact .inl ⟨hl, hm, hc, switchTo_of_eq hc⟩
      · rw [switchTo_of_ne hc]
        have ht : t = MODE_ICP ∨ t = MODE_ALT := by simpa [legalTarget] using hl
        rcases ht with rfl | rfl
        · exact .inr (.inl ⟨rfl, hm, hc, rfl⟩)
        · exact .inr (.inr ⟨rfl, hm, hc, rfl⟩)
  · refine .inl ⟨by simpa using hl, ?_⟩
    unfold runSwitch
    rw [if_neg hl]

end Sys2Proof.Machine
end

