-- ==== Sys2Proof/Laws/Levels.lean ====
section
/-! SUPPORT. The rows of the line levels between operations: what fitting a row says, and the row after each command. -/

namespace Sys2Proof.Machine

theorem LevelRow.fits_undriven (s : State) : LevelRow.undriven.fits s ↔ s.mode = .uninitialized ∧ s.oe = false :=
  Iff.rfl

/-- What fitting a row says where the lines are driven. -/
theorem LevelRow.fits_of_levels {r : LevelRow} {m : Mode} {c d : Bool} (h : r.levels = (m, some (c, d))) (s : State) :
    r.fits s ↔ s.mode = m ∧ m ≠ .uninitialized ∧ s.oe = true ∧ s.clk = c ∧ s.din = d ∧ s.msel = false := by
  unfold LevelRow.fits
  rw [h]
  constructor <;> (rintro ⟨rfl, h⟩; exact ⟨rfl, h⟩)

theorem LevelRow.levels_of_ne {r : LevelRow} (h : r ≠ .undriven) : ∃ m c d, r.levels = (m, some (c, d)) := by
  cases r <;> first | contradiction | exact ⟨_, _, _, rfl⟩

/-- A refusal keeps the row. -/
theorem LevelRow.fits_refuse (r : LevelRow) (x : RefuseReason) (s : State) : r.fits (refuse x s) ↔ r.fits s := Iff.rfl

/-- Only the first row fits an engine before HANDSHAKE, and it fits no other. -/
theorem LevelRow.eq_undriven_iff {r : LevelRow} {s : State} (h : r.fits s) :
    r = .undriven ↔ s.mode = .uninitialized := by
  constructor
  · rintro rfl
    exact h.1
  · intro hm
    by_contra hr
    obtain ⟨m, c, d, hl⟩ := levels_of_ne hr
    obtain ⟨h1, h2, -⟩ := (fits_of_levels hl s).mp h
    exact h2 (h1.symm.trans hm)

/-! ### The row after a command -/

theorem LevelRow.after_handshake (r : LevelRow) : r.after .handshake = .resetByHandshake := by cases r <;> rfl

theorem LevelRow.after_undriven {i : Instr} (h : i ≠ .handshake) : LevelRow.undriven.after i = .undriven := by
  cases i <;> first | contradiction | rfl

theorem LevelRow.after_switchmode {r : LevelRow} (h : r ≠ .undriven) (t : Byte) :
    r.after (.switchmode t) =
      if t = 0x96 ∧ r.levels.1 ≠ .icpMode then .icp
      else if t = 0xA5 ∧ r.levels.1 ≠ .altMode then .altEntered
      else r := by
  cases r <;> first | contradiction | rfl

theorem LevelRow.after_check {r : LevelRow} (h : r ≠ .undriven) : r.after .check = .probed r.levels.1 := by
  cases r <;> first | contradiction | rfl

theorem LevelRow.after_ping {r : LevelRow} (h : r ≠ .undriven) : r.after .ping = .probed r.levels.1 := by
  cases r <;> first | contradiction | rfl

theorem LevelRow.after_readflash {r : LevelRow} (h : r ≠ .undriven) (a : Addr24) (c : Bool) :
    r.after (.readflash a c) = .icp := by
  cases r <;> first | contradiction | rfl

end Sys2Proof.Machine
end

