-- ==== Sys2Proof/Laws/PerInstr.lean ====
section
/-! SUPPORT. Per-instruction family `OpcodeRow`: the encoding of an instruction carries the match value of its row
of spec/opcode_table.json under the row's mask. -/

namespace Sys2Proof.Laws.OpcodeRow

open Sys2Proof

/-- The instruction's code agrees with its row of the opcode table. -/
def Statement (i : Instr) : Prop := (encode i).masked (rowMask i) = some (rowMatch i)

/-- A packed command word keeps its operation number in the four top bits, whatever its operands. -/
theorem packCommand_masked (op : BitVec 4) (cb : Bool) (addr : Addr24) :
    packCommand op cb addr &&& 0xF0000000#32 = op ++ 0#28 := by
  apply BitVec.eq_of_getLsbD_eq
  intro k hk
  have hm : (0xF0000000#32).getLsbD k = decide (28 ≤ k) := by
    interval_cases k <;> rfl
  simp only [packCommand, BitVec.getLsbD_and, BitVec.getLsbD_append, hm]
  by_cases h : k < 28
  · have h' : ¬ 28 ≤ k := by omega
    simp [h, h']
  · have h' : 28 ≤ k := by omega
    simp [h, h']

theorem handshake : Statement .handshake := rfl
theorem reset : Statement .reset := rfl
theorem switchmode (tgt : Byte) : Statement (.switchmode tgt) :=
  congrArg some (congrArg Code.command (packCommand_masked 0x3 false (0#16 ++ tgt)))
theorem check : Statement .check := rfl
theorem ping : Statement .ping := rfl
theorem readflash (addr : Addr24) (cb : Bool) : Statement (.readflash addr cb) :=
  congrArg some (congrArg Code.command (packCommand_masked 0x6 cb addr))
theorem icpAddress7b0 : Statement .icpAddress7b0 := rfl
theorem icpAddress15b8 : Statement .icpAddress15b8 := rfl
theorem icpAddress23b16 : Statement .icpAddress23b16 := rfl
theorem icpRead : Statement .icpRead := rfl
theorem icpWrite : Statement .icpWrite := rfl
theorem icpReadCustomBlock : Statement .icpReadCustomBlock := rfl
theorem modeIcp : Statement .modeIcp := rfl
theorem modeAlt : Statement .modeAlt := rfl
theorem opProbe : Statement .opProbe := rfl
theorem opPing : Statement .opPing := rfl
theorem opPre : Statement .opPre := rfl

end Sys2Proof.Laws.OpcodeRow
end

