-- ==== Sys2Proof/Laws/Port.lean ====
section
/-! SUPPORT. The host port: what a read or write of the window answers, by register, and the fields of STATUS. -/

namespace Sys2Proof.Machine

/-! ### One step by what the outside does -/

theorem step_of_busy {s : State} (h : s.busy = true) : step s = busyStep s := if_pos h

theorem step_of_idle {s : State} (h : s.busy = false) : step s = idleStep s := if_neg (by simp [h])

/-- A read of the window is answered alike, busy or idle. -/
theorem step_read {s : State} {n : Nat} {rest : List Input} (h : s.inputs = .read n :: rest) :
    step s = portRead n { s with inputs := rest } := by
  unfold step busyStep idleStep
  rw [h]
  exact ite_self _

/-- So is a write to a register other than `CMD`. -/
theorem step_write {s : State} {n : Nat} {w : Word} {rest : List Input} (hn : n ≠ regCmd)
    (h : s.inputs = .write n w :: rest) : step s = portWrite n { s with inputs := rest } := by
  unfold step busyStep idleStep
  rw [h]
  simp only [if_neg hn]
  exact ite_self _

/-- Hardware reset acts alike, busy or idle. -/
theorem step_hardReset {s : State} {rest : List Input} (h : s.inputs = .hardReset :: rest) :
    step s = .next (hardReset { s with inputs := rest }) := by
  unfold step busyStep idleStep
  rw [h]
  exact ite_self _

/-- An idle engine accepts a command word, in either form of the write. -/
theorem step_call {s : State} {w : Word} {rest : List Input} (hb : s.busy = false) (h : s.inputs = .call w :: rest) :
    step s = callCommand w { s with inputs := rest } := by
  rw [step_of_idle hb]
  unfold idleStep
  rw [h]

theorem step_write_cmd {s : State} {w : Word} {rest : List Input} (hb : s.busy = false)
    (h : s.inputs = .write 0 w :: rest) : step s = .next (acceptCommand w { s with inputs := rest }) := by
  rw [step_of_idle hb]
  unfold idleStep
  rw [h]
  rfl

/-- A busy engine with the outside quiet goes on by one action. -/
theorem step_quiet {s : State} (hb : s.busy = true) (h : s.inputs = []) : step s = .next (advance s) := by
  rw [step_of_busy hb]
  unfold busyStep
  rw [h]

theorem step_tick {s : State} {rest : List Input} (hb : s.busy = true) (h : s.inputs = .tick :: rest) :
    step s = .next (advance { s with inputs := rest }) := by
  rw [step_of_busy hb]
  unfold busyStep
  rw [h]

theorem portRead_of_lt {n : Nat} (hn : n < 32) (s : State) :
    portRead n s =
      .next { s with readData := windowValue (Config.freeRead s.freeReads) n s, freeReads := s.freeReads + 1 } :=
  if_pos hn

theorem portRead_of_ge {n : Nat} (hn : 32 ≤ n) (s : State) : portRead n s = .fault (.outsideWindow n) :=
  if_neg (Nat.not_lt.mpr hn)

theorem portWrite_of_lt {n : Nat} (hn : n < 32) (s : State) : portWrite n s = .next s := if_pos hn

theorem portWrite_of_ge {n : Nat} (hn : 32 ≤ n) (s : State) : portWrite n s = .fault (.outsideWindow n) :=
  if_neg (Nat.not_lt.mpr hn)

/-! ### The value of each register -/

theorem windowValue_status (f : Word) (s : State) : windowValue f 1 s = statusRead f s := rfl

theorem windowValue_config (f : Word) (s : State) : windowValue f 2 s = configWord s.cfg := rfl

theorem windowValue_reserved (f : Word) {n : Nat} (h : 3 ≤ n) (h' : n ≤ 15) (s : State) : windowValue f n s = 0 := by
  have h0 : n ≠ regCmd := by simp only [regCmd]; omega
  have h1 : n ≠ regStatus := by simp only [regStatus]; omega
  have h2 : n ≠ regConfig := by simp only [regConfig]; omega
  have h3 : n < regRbuf := by simp only [regRbuf]; omega
  simp only [windowValue, if_neg h0, if_neg h1, if_neg h2, if_pos h3]

theorem windowValue_rbuf (f : Word) {n : Nat} (h : 16 ≤ n) (s : State) : windowValue f n s = rbufRead f (n - 16) s := by
  have h0 : n ≠ regCmd := by simp only [regCmd]; omega
  have h1 : n ≠ regStatus := by simp only [regStatus]; omega
  have h2 : n ≠ regConfig := by simp only [regConfig]; omega
  have h3 : ¬ n < regRbuf := by simp only [regRbuf]; omega
  simp only [windowValue, if_neg h0, if_neg h1, if_neg h2, if_neg h3]
  rfl

/-! ### Fields -/

/-- The fields of STATUS (10_state.md R30). -/
theorem statusWord_fields (busy chk err : Bool) (mode : Byte) :
    (statusWord busy chk err mode).getLsbD 0 = busy ∧ (statusWord busy chk err mode).getLsbD 1 = chk ∧
      (statusWord busy chk err mode).getLsbD 2 = err ∧ (statusWord busy chk err mode).extractLsb' 3 5 = 0 ∧
      (statusWord busy chk err mode).extractLsb' 8 8 = mode ∧
      (statusWord busy chk err mode).extractLsb' 16 16 = 0 := by
  refine ⟨?_, ?_, ?_, ?_, ?_, ?_⟩
  · simp only [statusWord, BitVec.getLsbD_append]
    simp
  · simp only [statusWord, BitVec.getLsbD_append]
    simp
  · simp only [statusWord, BitVec.getLsbD_append]
    simp
  all_goals
    apply BitVec.eq_of_getLsbD_eq
    intro i hi
    simp only [statusWord, BitVec.getLsbD_append, BitVec.getLsbD_extractLsb']
    interval_cases i <;> simp

/-- The fields of CONFIG (10_state.md R29). -/
theorem configWord_fields (c : ChipConfig) :
    (configWord c).getLsbD 0 = c.extraPreamble ∧ (configWord c).getLsbD 1 = c.addrHighField ∧
      (configWord c).extractLsb' 2 30 = 0 := by
  obtain ⟨a, b⟩ := c
  cases a <;> cases b <;> decide

/-- The fields of a read of `RBUFi` (10_state.md R29). -/
theorem rbufRead_fields (f : Word) (i : Nat) (s : State) :
    (rbufRead f i s).extractLsb' 8 24 = 0 ∧
      (rbufRead f i s).extractLsb' 0 8 = if s.busy || !s.rbufValid then f.extractLsb' 0 8 else s.rbuf.read i := by
  unfold rbufRead
  generalize (if s.busy || !s.rbufValid then f.extractLsb' 0 8 else s.rbuf.read i) = b
  constructor <;> apply BitVec.eq_of_getLsbD_eq <;> intro k hk <;>
    simp only [BitVec.getLsbD_append, BitVec.getLsbD_extractLsb']
  · have h : ¬ 8 + k < 8 := by omega
    simp [h]
  · simp [hk]

end Sys2Proof.Machine
end

