-- ==== Sys2Proof/Laws/Sequencer.lean ====
section
/-! SUPPORT. The sequencer against the operations run whole: an action emits at most one event, and a list of
actions, wherever it stands in the sequencer, ends in the state of the shared operation it spells out. -/

namespace Sys2Proof.Machine

/-! ### One action -/

/-- An action records at most one line event. -/
theorem perform_trace (it : Item) (s : State) :
    ∃ es, (perform it s).trace = s.trace ++ es ∧ es.length ≤ 1 := by
  cases it <;> simp only [perform, cfgLines, setLine, clrLine, waitUs, sampleBit, smpDout, pushItems, guarded,
    abandon, refuse, writeChk, countLoop]
  case cfg => split <;> exact ⟨[_], by simp [State.trace, emit]; rfl, by simp⟩
  case set l => exact ⟨[_], by simp [State.trace, emit]; rfl, by simp⟩
  case clr l => exact ⟨[_], by simp [State.trace, emit]; rfl, by simp⟩
  case wait l => exact ⟨[_], by simp [State.trace, emit]; rfl, by simp⟩
  case sample => exact ⟨[_], by simp [State.trace, emit]; rfl, by simp⟩
  all_goals (try split) <;> (try split) <;> exact ⟨[], by simp [State.trace], by simp⟩

@[simp] theorem settle_trace (s : State) : (settle s).trace = s.trace := by simp [settle_eq, State.trace]

/-- No action looks at what the outside will do. -/
theorem perform_inputs (it : Item) (s : State) (l : List Input) :
    perform it { s with inputs := l } = { perform it s with inputs := l } := by
  cases it <;> simp only [perform, cfgLines, setLine, clrLine, emit, setLatch, waitUs, sampleBit, smpDout, pushItems,
    guarded, abandon, refuse, writeChk, State.drawAt, countLoop]
  case cfg => split <;> rfl
  case set l => cases l <;> rfl
  case clr l => cases l <;> rfl
  all_goals (try split) <;> (try split) <;> rfl

theorem advance_inputs (s : State) (l : List Input) :
    advance { s with inputs := l } = { advance s with inputs := l } := by
  unfold advance
  cases hs : s.seq with
  | nil => simp [settle_eq, hs]
  | cons it rest =>
    have h := perform_inputs it { s with seq := rest } l
    simp only at h
    simp only [settle_eq, h]

/-- No action writes `BUSY`: it falls in `settle` only. -/
theorem perform_busy (it : Item) (s : State) : (perform it s).busy = s.busy := by
  cases it <;> simp only [perform, cfgLines, setLine, clrLine, emit, setLatch, waitUs, sampleBit, smpDout, pushItems,
    guarded, abandon, refuse, writeChk, countLoop]
  case cfg => split <;> rfl
  case set l => cases l <;> rfl
  case clr l => cases l <;> rfl
  all_goals (try split) <;> (try split) <;> rfl

/-- The action that refuses an accepted command ends it (60_exceptions.md R182). -/
theorem advance_refuse {s : State} (hb : s.busy = false) (r : RefuseReason) :
    advance { s with busy := true, seq := [.refuse r] } = { refuse r s with seq := [] } := by
  cases s
  cases hb
  rfl

theorem advanceN_add (n m : Nat) (s : State) : advanceN (n + m) s = advanceN m (advanceN n s) := by
  induction n generalizing s with
  | zero => rw [Nat.zero_add]; rfl
  | succ n ih => rw [Nat.succ_add]; exact ih _

/-! ### Runs of the sequencer -/

/-- The sequencer comes from `s` to `t`, busy all the way. -/
def Reaches (s t : State) : Prop := ∃ n, advanceN n s = t ∧ ∀ k, k < n → (advanceN k s).busy = true

theorem Reaches.refl (s : State) : Reaches s s := ⟨0, rfl, fun _ hk => absurd hk (Nat.not_lt_zero _)⟩

theorem Reaches.trans {s t u : State} (h : Reaches s t) (h' : Reaches t u) : Reaches s u := by
  obtain ⟨n, hn, hb⟩ := h
  obtain ⟨m, hm, hb'⟩ := h'
  refine ⟨n + m, by rw [advanceN_add, hn, hm], fun k hk => ?_⟩
  by_cases hkn : k < n
  · exact hb k hkn
  · obtain ⟨j, rfl⟩ := Nat.exists_eq_add_of_le (Nat.le_of_not_lt hkn)
    rw [advanceN_add, hn]
    exact hb' j (by omega)

/-- A busy state goes on with one action. -/
theorem Reaches.step {s t : State} (hb : s.busy = true) (h : Reaches (advance s) t) : Reaches s t := by
  refine Reaches.trans ⟨1, rfl, fun k hk => ?_⟩ h
  obtain rfl : k = 0 := by omega
  exact hb

/-- A busy engine whose sequencer stands at a list of actions. -/
def State.running (s : State) (l : List Item) : State := { s with seq := l, busy := true }

theorem settle_running_cons (s : State) (it : Item) (l : List Item) :
    settle (s.running (it :: l)) = s.running (it :: l) := rfl

theorem advance_running_cons (s : State) (it : Item) (l : List Item) :
    advance (s.running (it :: l)) = settle (perform it (s.running l)) := rfl

/-- Wherever the actions stand, the sequencer performs them from `s` to `t`. -/
def Does (its : List Item) (s t : State) : Prop :=
  ∀ rest, Reaches (s.running (its ++ rest)) (settle (t.running rest))

theorem Does.append {as bs : List Item} {s t u : State} (h : Does as s t) (hb : bs ≠ []) (h' : Does bs t u) :
    Does (as ++ bs) s u := by
  intro rest
  have h1 := h (bs ++ rest)
  obtain ⟨b, bs', rfl⟩ := List.exists_cons_of_ne_nil hb
  rw [List.cons_append, settle_running_cons, ← List.cons_append] at h1
  rw [List.append_assoc]
  exact h1.trans (h' rest)

theorem Does.cons {it : Item} {b : Item} {bs : List Item} {s t u : State} (h : Does [it] s t)
    (h' : Does (b :: bs) t u) : Does (it :: b :: bs) s u :=
  Does.append (as := [it]) h (List.cons_ne_nil _ _) h'

/-- An action that calls nothing. -/
theorem Does.one {it : Item} {s t : State} (h : ∀ rest, perform it (s.running rest) = t.running rest) :
    Does [it] s t := by
  intro rest
  refine Reaches.step rfl ?_
  rw [List.singleton_append, advance_running_cons, h]
  exact Reaches.refl _

/-- An action that puts others before those left. -/
theorem Does.call {it : Item} {body : List Item} {s s' t : State} (hb : body ≠ [])
    (h : ∀ rest, perform it (s.running rest) = s'.running (body ++ rest)) (h' : Does body s' t) : Does [it] s t := by
  intro rest
  refine Reaches.step rfl ?_
  rw [List.singleton_append, advance_running_cons, h]
  obtain ⟨b, bs, rfl⟩ := List.exists_cons_of_ne_nil hb
  exact h' rest

/-! ### Line events and pulses -/

theorem does_cfg (s : State) : Does [.cfg] s (cfgLines s) := .one fun rest => by
  by_cases h : s.oe = true <;> simp [perform, cfgLines, State.running, emit, h]

theorem does_set (l : Line) (s : State) : Does [.set l] s (setLine l s) := .one fun rest => by cases l <;> rfl

theorem does_clr (l : Line) (s : State) : Does [.clr l] s (clrLine l s) := .one fun rest => by cases l <;> rfl

theorem does_wait (n : Nat) (s : State) : Does [.wait n] s (waitUs n s) := .one fun _ => rfl

theorem does_sample (s : State) : Does [.sample] s (sampleBit s) := .one fun _ => rfl

theorem does_drive (b : Bool) (s : State) : Does [driveItem .din b] s (driveLine .din b s) := by
  cases b
  · exact does_clr .din s
  · exact does_set .din s

theorem does_lowPulse (l : Line) (a b : Nat) (s : State) : Does (lowPulseItems l a b) s (lowPulse l a b s) :=
  (does_clr l s).cons ((does_wait a _).cons ((does_set l _).cons (does_wait b _)))

theorem does_highPulse (l : Line) (a b : Nat) (s : State) : Does (highPulseItems l a b) s (highPulse l a b s) :=
  (does_set l s).cons ((does_wait a _).cons ((does_clr l _).cons (does_wait b _)))

theorem does_pulse (s : State) : Does [.pulse] s (pulseClock s) :=
  .call (body := highPulseItems .clk tPulseHigh tPulseLow) (List.cons_ne_nil _ _) (fun _ => rfl)
    (does_highPulse _ _ _ s)

/-! ### Trains -/

/-- A counted train, from the loop test on. -/
theorem does_lowTrain (l : Line) (a b : Nat) (n : Nat) (hn : n < 2 ^ 16) (s : State)
    (hl : s.loop = BitVec.ofNat 16 n) :
    Does [.lowTrain l a b] s (times n (fun t => lowPulse l a b (countLoop t)) s) := by
  induction n generalizing s with
  | zero => exact .one fun rest => by simp [perform, State.running, hl]
  | succ n ih =>
    have hne : BitVec.ofNat 16 (n + 1) ≠ 0#16 := by
      intro h
      have := congrArg BitVec.toNat h
      simp at this
      omega
    refine .call (body := lowPulseItems l a b ++ [.lowTrain l a b]) (s' := countLoop s) (by simp [lowPulseItems])
      (fun rest => by simp [perform, State.running, hl, hne, pushItems, countLoop]) ?_
    refine (does_lowPulse l a b _).append (List.cons_ne_nil _ _) ?_
    refine ih (by omega) _ ?_
    rw [lowPulse_eq]
    have : BitVec.ofNat 16 (n + 1) - 1#16 = BitVec.ofNat 16 n := by
      apply BitVec.eq_of_toNat_eq
      simp
      omega
    cases l <;> simp [countLoop, setLatch, hl, this]

theorem does_pulseTrain (n : Nat) (hn : n < 2 ^ 16) (s : State) (hl : s.loop = BitVec.ofNat 16 n) :
    Does [.pulseTrain] s (times n (fun t => pulseClock (countLoop t)) s) := by
  induction n generalizing s with
  | zero => exact .one fun rest => by simp [perform, State.running, hl]
  | succ n ih =>
    have hne : BitVec.ofNat 16 (n + 1) ≠ 0#16 := by
      intro h
      have := congrArg BitVec.toNat h
      simp at this
      omega
    refine .call (body := [.pulse, .pulseTrain]) (s' := countLoop s) (List.cons_ne_nil _ _)
      (fun rest => by simp [perform, State.running, hl, hne, pushItems, countLoop]) ?_
    refine (does_pulse _).cons ?_
    refine ih (by omega) _ ?_
    have : BitVec.ofNat 16 (n + 1) - 1#16 = BitVec.ofNat 16 n := by
      apply BitVec.eq_of_toNat_eq
      simp
      omega
    simp [pulseClock_eq, countLoop, hl, this]

theorem does_loadLoop (n : Nat) (s : State) : Does [.loadLoop n] s { s with loop := BitVec.ofNat 16 n } :=
  .one fun _ => rfl

/-- `repeat n times { LowPulse(l, a, b) }`. -/
theorem does_train (n : Nat) (hn : n < 2 ^ 16) (l : Line) (a b : Nat) (s : State) :
    Does (trainItems n l a b) s (repeatLoop n (lowPulse l a b) s) :=
  (does_loadLoop n s).cons (does_lowTrain l a b n hn _ rfl)

/-- `pulseClocks(n)`. -/
theorem does_pulseClocks (n : Nat) (hn : n < 2 ^ 16) (s : State) :
    Does [.loadLoop n, .pulseTrain] s (pulseClocks n s) :=
  (does_loadLoop n s).cons (does_pulseTrain n hn _ rfl)

/-! ### Frames -/

/-- The transmitter from bit `i` down to bit 0. -/
theorem does_txBit (v : Byte) (i : Nat) (hi : i < 8) (s : State) (hb : s.bitn = BitVec.ofNat 3 i) :
    Does [.txBit v] s (((List.range (i + 1)).reverse).foldl (sendBit v) s) := by
  induction i generalizing s with
  | zero =>
    refine .call (body := [driveItem .din (v.getLsbD 0), .pulse, .txNext v]) (s' := s) (List.cons_ne_nil _ _)
      (fun rest => by simp [perform, State.running, pushItems, hb]) ?_
    have hs : { s with bitn := BitVec.ofNat 3 0 } = s := by rw [← hb]
    refine (does_drive _ s).cons ((does_pulse _).cons ?_)
    have : ((List.range (0 + 1)).reverse).foldl (sendBit v) s = pulseClock (driveLine .din (v.getLsbD 0) s) := by
      simp only [List.range_succ, List.range_zero, List.nil_append, List.reverse_cons, List.reverse_nil,
        List.foldl_cons, List.foldl_nil, sendBit, hs]
    rw [this]
    exact .one fun rest => by simp [perform, State.running, pulseClock_eq, driveLine_din_eq, hb]
  | succ i ih =>
    have hm : (i + 1) % 8 = i + 1 := Nat.mod_eq_of_lt hi
    refine .call (body := [driveItem .din (v.getLsbD (i + 1)), .pulse, .txNext v]) (s' := s) (List.cons_ne_nil _ _)
      (fun rest => by simp [perform, State.running, pushItems, hb, hm]) ?_
    have hs : { s with bitn := BitVec.ofNat 3 (i + 1) } = s := by rw [← hb]
    refine (does_drive _ s).cons ((does_pulse _).cons ?_)
    have hfold : ((List.range (i + 1 + 1)).reverse).foldl (sendBit v) s =
        ((List.range (i + 1)).reverse).foldl (sendBit v) (pulseClock (driveLine .din (v.getLsbD (i + 1)) s)) := by
      rw [List.range_succ, List.reverse_append]
      simp only [List.reverse_cons, List.reverse_nil, List.nil_append, List.singleton_append, List.foldl_cons,
        sendBit, hs]
    have hstart : ∀ t : State, (((List.range (i + 1)).reverse).foldl (sendBit v) t) =
        ((List.range (i + 1)).reverse).foldl (sendBit v) { t with bitn := BitVec.ofNat 3 i } := by
      intro t
      rw [List.range_succ, List.reverse_append]
      rfl
    rw [hfold, hstart]
    have hne : BitVec.ofNat 3 (i + 1) ≠ 0#3 := by
      intro h
      have := congrArg BitVec.toNat h
      simp at this
      omega
    have hsub : BitVec.ofNat 3 (i + 1) - 1#3 = BitVec.ofNat 3 i := by
      apply BitVec.eq_of_toNat_eq
      simp
      omega
    refine .call (body := [.txBit v]) (List.cons_ne_nil _ _) (fun rest => ?_) (ih (by omega) _ rfl)
    simp [perform, State.running, pushItems, pulseClock_eq, driveLine_din_eq, hb, hne, hsub]

/-- The eight data bits of a transmitter. -/
theorem does_sendBits (v : Byte) (s : State) : Does [.setBitn 7, .txBit v] s (sendBits v s) := by
  have h := does_txBit v 7 (by decide) { s with bitn := 7 } rfl
  have hr : (List.range (7 + 1)).reverse = [7, 6, 5, 4, 3, 2, 1, 0] := by decide
  rw [hr] at h
  have hs : [7, 6, 5, 4, 3, 2, 1, 0].foldl (sendBit v) { s with bitn := 7 } = sendBits v s := rfl
  rw [hs] at h
  exact Does.cons (.one fun _ => rfl) h

/-- `sendByteMSBFirst` (41_transfer_primitives.md R112). -/
theorem does_commandFrame (v : Byte) (s : State) : Does (commandFrameItems v) s (sendByteMSBFirst v s) :=
  (does_sendBits v s).append (List.cons_ne_nil _ _) ((does_clr .din _).cons (does_pulse _))

/-- `sendModeByte` (R113). -/
theorem does_modeFrame (v : Byte) (s : State) : Does (modeFrameItems v) s (sendModeByte v s) :=
  (does_sendBits v s).append (List.cons_ne_nil _ _) ((does_pulse _).cons (does_pulse _))

theorem does_data (v : Byte) (s : State) : Does [.data v] s (sendByteMSBFirst v s) :=
  .call (List.cons_ne_nil _ _) (fun _ => rfl) (does_commandFrame v s)

/-- An opcode value in the frame its row names (30_encoding.md R78). -/
theorem does_wire (b : Byte) (s : State) :
    Does [.wire b] s (if isModeValue b then sendModeByte b s else sendByteMSBFirst b s) := by
  refine .call (body := wireFrameItems b) (s' := s) ?_ (fun _ => rfl) ?_
  · unfold wireFrameItems
    split <;> exact List.cons_ne_nil _ _
  · unfold wireFrameItems
    split
    · exact does_modeFrame b s
    · exact does_commandFrame b s

theorem does_wire_command {b : Byte} (hb : isModeValue b = false) (s : State) :
    Does [.wire b] s (sendByteMSBFirst b s) := by
  have h := does_wire b s
  rwa [hb] at h

theorem does_wire_mode {b : Byte} (hb : isModeValue b = true) (s : State) :
    Does [.wire b] s (sendModeByte b s) := by
  have h := does_wire b s
  rwa [hb] at h

/-- A byte of a fixed sequence goes out in a command frame, whether it stands as an opcode or as data. -/
theorem does_byteItem (b : Byte) (s : State) : Does [byteItem b] s (sendByteMSBFirst b s) := by
  unfold byteItem
  split
  · exact does_data b s
  · rename_i hm
    split
    · exact does_wire_command (by simpa using hm) s
    · exact does_data b s

/-- A fixed sequence of bytes, each in a command frame. -/
theorem does_sendBytes {vs : List Byte} (hv : vs ≠ []) (s : State) :
    Does (vs.map byteItem) s (sendBytes vs s) := by
  induction vs generalizing s with
  | nil => exact absurd rfl hv
  | cons v vs ih =>
    cases vs with
    | nil => exact does_byteItem v s
    | cons w ws => exact (does_byteItem v s).cons (ih (List.cons_ne_nil _ _) _)

/-- The receiver from the `i`-th of its last bits on. -/
theorem does_rxBit (k : Nat) (hk : k < 8) (s : State) (hb : s.bitn = BitVec.ofNat 3 (7 - k)) :
    Does [.rxBit] s ((List.range' (7 - k) (k + 1)).foldl receiveBit s) := by
  induction k generalizing s with
  | zero =>
    have hs : { s with bitn := BitVec.ofNat 3 7 } = s := by rw [← hb]
    refine .call (body := [.pulse, .sample, .rxNext]) (s' := s) (List.cons_ne_nil _ _) (fun _ => rfl) ?_
    refine (does_pulse s).cons ((does_sample _).cons ?_)
    have : (List.range' (7 - 0) (0 + 1)).foldl receiveBit s = sampleBit (pulseClock s) := by
      simp only [List.range', List.foldl_cons, List.foldl_nil, receiveBit, Nat.sub_zero, hs]
    rw [this]
    refine .one fun rest => ?_
    have h7 : (sampleBit (pulseClock s)).bitn = 7#3 := by
      simpa [sampleBit, smpDout, emit, pulseClock_eq] using hb
    simp [perform, State.running, h7]
  | succ k ih =>
    have hs : { s with bitn := BitVec.ofNat 3 (7 - (k + 1)) } = s := by rw [← hb]
    refine .call (body := [.pulse, .sample, .rxNext]) (s' := s) (List.cons_ne_nil _ _) (fun _ => rfl) ?_
    refine (does_pulse s).cons ((does_sample _).cons ?_)
    have h1 : 7 - (k + 1) + 1 = 7 - k := by omega
    have hfold : (List.range' (7 - (k + 1)) (k + 1 + 1)).foldl receiveBit s =
        (List.range' (7 - k) (k + 1)).foldl receiveBit { sampleBit (pulseClock s) with
          bitn := BitVec.ofNat 3 (7 - k) } := by
      rw [List.range'_succ, h1]
      simp only [List.foldl_cons, receiveBit, hs]
      rw [List.range'_succ]
      rfl
    rw [hfold]
    have hbit : (sampleBit (pulseClock s)).bitn = BitVec.ofNat 3 (7 - (k + 1)) := by
      simpa [sampleBit, smpDout, emit, pulseClock_eq] using hb
    have hne : BitVec.ofNat 3 (7 - (k + 1)) ≠ 7#3 := by
      intro h
      have := congrArg BitVec.toNat h
      simp at this
      omega
    have hadd : BitVec.ofNat 3 (7 - (k + 1)) + 1 = BitVec.ofNat 3 (7 - k) := by
      rw [← h1]
      apply BitVec.eq_of_toNat_eq
      simp
    refine .call (body := [.rxBit]) (List.cons_ne_nil _ _) (fun rest => ?_) (ih (by omega) _ rfl)
    simp only [perform, State.running, hbit, if_neg hne, hadd, pushItems]

/-- `receiveByte` (R114). -/
theorem does_receiveFrame (s : State) : Does receiveFrameItems s (receiveByte s) := by
  have h := does_rxBit 7 (by decide) { { clrLine .din s with acc := 0 } with bitn := 0 } rfl
  have hr : List.range' (7 - 7) (7 + 1) = [0, 1, 2, 3, 4, 5, 6, 7] := by decide
  rw [hr] at h
  have hs : [0, 1, 2, 3, 4, 5, 6, 7].foldl receiveBit { { clrLine .din s with acc := 0 } with bitn := 0 } =
      [0, 1, 2, 3, 4, 5, 6, 7].foldl receiveBit { clrLine .din s with acc := 0 } := rfl
  rw [hs] at h
  have h2 := h.append (List.cons_ne_nil _ _) (does_pulse _)
  exact (does_clr .din s).cons (Does.cons (.one fun _ => rfl) (Does.cons (.one fun _ => rfl) h2))

theorem does_receive (s : State) : Does [.receive] s (receiveByte s) :=
  .call (List.cons_ne_nil _ _) (fun _ => rfl) (does_receiveFrame s)

/-- A frame that does not touch the sequencer is one action or more, the engine busy before each. -/
theorem Does.frame {it : Item} {left : List Item} {s u : State} (h : Does [it] { s with seq := left } u)
    (hb : s.busy = true) (hs : s.seq = it :: left) (hu : u.busy = true) (hl : u.seq = left) :
    ∃ n, settle u = advanceN (n + 1) s ∧ ∀ k, k ≤ n → (advanceN k s).busy = true := by
  obtain ⟨n, h1, h2⟩ := h left
  have hstart : State.running { s with seq := left } ([it] ++ left) = s := by
    cases s
    simp_all [State.running]
  have hend : u.running left = u := by
    cases u
    simp_all [State.running]
  rw [hstart] at h1 h2
  rw [hend] at h1
  cases n with
  | zero =>
    have hseq : (settle u).seq = u.seq := by
      unfold settle
      split <;> rfl
    rw [← h1, hl] at hseq
    exact absurd (hs.symm.trans hseq) (List.cons_ne_self _ _)
  | succ n => exact ⟨n, h1.symm, fun k hk => h2 k (by omega)⟩

/-! ### Operations -/

/-- HANDSHAKE (42_entry_handshake.md R120). -/
theorem does_handshake (s : State) : Does handshakeItems s (runHandshake s) := by
  simp only [handshakeItems, List.flatten_cons, List.flatten_nil, List.append_nil]
  have h1 : Does handshakeStartItems s
      (waitUs tSettle (setLine .msel (setLine .din (setLine .clk (cfgLines s))))) :=
    (does_cfg s).cons ((does_set _ _).cons ((does_set _ _).cons ((does_set _ _).cons (does_wait _ _))))
  refine h1.append (by simp [lowPulseItems]) ((does_lowPulse _ _ _ _).append (by simp [trainItems]) ?_)
  refine (does_train _ (by decide) _ _ _ _).append (by simp [trainItems]) ?_
  refine (does_train _ (by decide) _ _ _ _).append (by simp [trainItems]) ?_
  refine (does_train _ (by decide) _ _ _ _).append (by simp [trainItems]) ?_
  refine (does_train _ (by decide) _ _ _ _).append (by simp [handshakeModeItems]) ?_
  have h2 : ∀ t, Does handshakeModeItems t (handshakeMode t) := fun t =>
    (does_wait _ t).cons ((does_clr _ _).cons ((does_clr _ _).cons ((does_wait _ _).cons
      ((does_wire_mode (by decide) _).cons ((does_set _ _).cons (does_wait _ _))))))
  refine (h2 _).append (by simp [trainItems]) ?_
  refine (does_train _ (by decide) _ _ _ _).append (by simp [highPulseItems]) ?_
  refine (does_highPulse _ _ _ _).append (List.cons_ne_nil _ _) ?_
  exact .one fun _ => rfl

/-- RESET as an internal call, from an initialised mode (43_mode_switch.md R130 to R133). -/
theorem does_callReset {s : State} (h : s.mode ≠ .uninitialized) : Does [.callReset] s (runReset s) := by
  unfold runReset
  cases hm : s.mode with
  | uninitialized => exact absurd hm h
  | modeReset => exact .one fun rest => by simp [perform, pushItems, resetItems, State.running, hm]
  | altMode =>
    refine .call (body := resetItems .altMode) (s' := s) (List.cons_ne_nil _ _)
      (fun rest => by simp [perform, pushItems, State.running, hm]) ?_
    exact (does_set _ _).cons ((does_train nAltReset (by decide) .clk tStep tStep _).append
      (bs := [.clr .msel, .setMode .modeReset]) (List.cons_ne_nil _ _) ((does_clr _ _).cons (.one fun _ => rfl)))
  | icpMode =>
    refine .call (body := resetItems .icpMode) (s' := s) (List.cons_ne_nil _ _)
      (fun rest => by simp [perform, pushItems, State.running, hm]) ?_
    exact (does_set _ _).cons ((does_highPulse .msel tStep tStep _).append
      (bs := [.setMode .modeReset]) (List.cons_ne_nil _ _) (.one fun _ => rfl))

/-- PING (44_probes.md R151). -/
theorem does_callPing (s : State) : Does [.callPing] s (runPing s) :=
  .call (body := pingItems) (List.cons_ne_nil _ _) (fun _ => rfl)
    ((does_wire_command (by decide) s).cons (does_data _ _))

/-- The entry of a mode (43_mode_switch.md R135, R136, R138). -/
theorem does_enterMode {t : Byte} (ht : legalTarget t = true) (s : State) :
    Does (List.flatten [[.clr .clk, .wait tStep, .wire t], tailItems t, [.setMode (modeOfTarget t)]]) s
      (enterMode t s) := by
  have htm : isModeValue t = true := ht
  simp only [List.flatten_cons, List.flatten_nil, List.append_nil]
  have h1 : Does [.clr .clk, .wait tStep, .wire t] s (sendModeByte t (waitUs tStep (clrLine .clk s))) :=
    (does_clr _ _).cons ((does_wait _ _).cons (does_wire_mode htm _))
  refine h1.append (by unfold tailItems; split <;> simp) ?_
  unfold tailItems enterMode
  by_cases hi : t = MODE_ICP
  · simp only [if_pos hi]
    exact (does_wait _ _).cons ((does_set _ _).cons ((does_wait _ _).cons ((does_callPing _).cons
      (.one fun _ => rfl))))
  · simp only [if_neg hi]
    have h2 : ∀ u, Does [.set .msel, .loadLoop nAltA, .pulseTrain, .clr .msel, .loadLoop nAltB, .pulseTrain] u
        (altTail u) := fun u =>
      (does_set _ _).cons ((does_pulseClocks nAltA (by decide) _).append
        (bs := [.clr .msel, .loadLoop nAltB, .pulseTrain]) (List.cons_ne_nil _ _)
        ((does_clr _ _).cons (does_pulseClocks nAltB (by decide) _)))
    exact (h2 _).append (List.cons_ne_nil _ _) (.one fun _ => rfl)

/-- SWITCHMODE as an internal call (43_mode_switch.md R135, R139, R140). -/
theorem does_callSwitch {t : Byte} (ht : legalTarget t = true) {s : State} (h : s.mode ≠ .uninitialized) :
    Does [.callSwitch t] s (switchTo t s) := by
  by_cases hc : s.mode.code = t
  · rw [switchTo_of_eq hc]
    exact .one fun rest => by simp [perform, pushItems, switchItems, State.running, hc]
  · have hcall : ∀ rest, perform (.callSwitch t) (s.running rest) =
        s.running (switchItems s.mode t ++ rest) := fun _ => rfl
    unfold switchTo
    rw [if_neg hc]
    refine .call (body := switchItems s.mode t) ?_ hcall ?_
    · unfold switchItems
      rw [if_neg hc]
      simp
    · unfold switchItems
      rw [if_neg hc]
      by_cases hm : s.mode = .modeReset
      · simp only [if_pos hm]
        exact does_enterMode ht s
      · simp only [if_neg hm]
        exact (does_callReset h).append (by simp) (does_enterMode ht _)

/-- The end of CHECK: the first byte is kept, the second received, the first compared. -/
theorem does_holdFirst (s : State) : Does [.holdFirst] s (writeChk s.acc (receiveByte s)) :=
  .call (body := [.receive, .setChk s.acc]) (s' := s) (List.cons_ne_nil _ _) (fun _ => rfl)
    ((does_receive s).cons (.one fun _ => rfl))

/-- CHECK (44_probes.md R150). -/
theorem does_check (s : State) : Does checkItems s (runCheck s) := by
  have h := (does_sendBytes (vs := checkBytes) (List.append_ne_nil_of_right_ne_nil _ (List.cons_ne_nil _ _))
    (clrLine .clk s)).append (List.cons_ne_nil _ _) ((does_receive _).cons (does_holdFirst _))
  exact (does_clr .clk s).append (as := [.clr .clk]) (by simp) h

/-- The sixteen receive frames, from the `k`-th of the last ones on. -/
theorem does_recvNext (k : Nat) (hk : k < 16) (s : State) (hb : s.byten = BitVec.ofNat 4 (15 - k)) :
    Does [.recvNext] s { (List.range' (15 - k) (k + 1)).foldl receiveInto s with rbufValid := true } := by
  induction k generalizing s with
  | zero =>
    have hs : { s with byten := BitVec.ofNat 4 15 } = s := by rw [← hb]
    refine .call (body := [.receive, .storeByte]) (s' := s) (List.cons_ne_nil _ _) (fun _ => rfl) ?_
    refine (does_receive s).cons (.one fun rest => ?_)
    have h15 : s.byten = 15#4 := hb
    simp only [perform, State.running, List.range', List.foldl_cons, List.foldl_nil, receiveInto, Nat.sub_zero, hs,
      receiveByte_eq, h15]
    rfl
  | succ k ih =>
    have hs : { s with byten := BitVec.ofNat 4 (15 - (k + 1)) } = s := by rw [← hb]
    refine .call (body := [.receive, .storeByte]) (s' := s) (List.cons_ne_nil _ _) (fun _ => rfl) ?_
    refine (does_receive s).cons ?_
    have h1 : 15 - (k + 1) + 1 = 15 - k := by omega
    have hfold : (List.range' (15 - (k + 1)) (k + 1 + 1)).foldl receiveInto s =
        (List.range' (15 - k) (k + 1)).foldl receiveInto { receiveInto s (15 - (k + 1)) with
          byten := BitVec.ofNat 4 (15 - k) } := by
      rw [List.range'_succ, h1]
      simp only [List.foldl_cons]
      rw [List.range'_succ]
      rfl
    rw [hfold]
    have hne : BitVec.ofNat 4 (15 - (k + 1)) ≠ 15#4 := by
      intro h
      have := congrArg BitVec.toNat h
      simp at this
      omega
    have hadd : BitVec.ofNat 4 (15 - (k + 1)) + 1 = BitVec.ofNat 4 (15 - k) := by
      rw [← h1]
      apply BitVec.eq_of_toNat_eq
      simp
    have hnat : (BitVec.ofNat 4 (15 - (k + 1))).toNat = 15 - (k + 1) := by
      rw [BitVec.toNat_ofNat]
      omega
    refine .call (body := [.recvNext]) (List.cons_ne_nil _ _) (fun rest => ?_) (ih (by omega) _ rfl)
    simp only [perform, State.running, receiveInto, hs, receiveByte_eq, hb, hnat, if_neg hne, hadd, pushItems]

/-- Phase P7 (45_flash_read.md R165). -/
theorem does_recvBlock (s : State) : Does [.recvBlock] s (receiveBlock s) := by
  have h := does_recvNext 15 (by decide) { s with byten := 0 } rfl
  have hr : List.range' (15 - 15) (15 + 1) = List.range blockLen := by decide
  rw [hr] at h
  exact .call (body := [.recvNext]) (s' := { s with byten := 0 }) (List.cons_ne_nil _ _) (fun _ => rfl) h

/-- READFLASH on its latched operands (45_flash_read.md R160). -/
theorem does_readflash {s : State} (h : s.mode ≠ .uninitialized) :
    Does readflashItems s (runReadflash s.addr s.cb s) := by
  have hm : (runReset s).mode = .modeReset := by
    rw [runReset_eq]
    cases hs : s.mode <;> simp_all
  have hr : (runReset s).mode ≠ .uninitialized := by rw [hm]; decide
  have hkeep : ∀ t, t = runSwitch MODE_ICP (runReset s) → t.addr = s.addr ∧ t.cb = s.cb ∧ t.cfg = s.cfg := by
    rintro t rfl
    rw [resync_eq h, runReset_eq]
    cases hs : s.mode <;> exact ⟨rfl, rfl, rfl⟩
  refine (does_callReset h).cons ?_
  have hsw := does_callSwitch (t := MODE_ICP) (by decide) hr
  rw [← runSwitch_of_legal (by decide) hr] at hsw
  refine hsw.cons ?_
  unfold runReadflash
  generalize hu : runSwitch MODE_ICP (runReset s) = u
  obtain ⟨ha, hc, hf⟩ := hkeep u hu.symm
  rw [← ha, ← hc, ← hf]
  have hpre : Does [.preamble] u (sendBytes (if u.cfg.extraPreamble then preambleBytes else []) u) := by
    by_cases hp : u.cfg.extraPreamble = true
    · simp only [if_pos hp]
      exact .call (body := preambleBytes.map byteItem) (s' := u) (List.cons_ne_nil _ _)
        (fun rest => by simp [perform, State.running, hp, pushItems]) (does_sendBytes (List.cons_ne_nil _ _) u)
    · simp only [if_neg hp]
      exact .one fun rest => by simp [perform, State.running, hp, pushItems, sendBytes]
  have hfield : ∀ (k : Fin 3) (w : State), Does [.addrField k] w (sendByteMSBFirst (addrByte w.addr k) w) :=
    fun k w => .call (body := [.data (addrByte w.addr k)]) (s' := w) (List.cons_ne_nil _ _) (fun _ => rfl)
      (does_data _ w)
  have hsel : ∀ (b : Byte) (k : Fin 3) (w : State), isModeValue b = false →
      Does [.wire b, .addrField k] w (sendByteMSBFirst (addrByte w.addr k) (sendByteMSBFirst b w)) := by
    intro b k w hb
    have := hfield k (sendByteMSBFirst b w)
    rw [show (sendByteMSBFirst b w).addr = w.addr by rw [sendByteMSBFirst_eq]] at this
    exact (does_wire_command hb w).cons this
  have hhigh : ∀ w : State, Does [.highField] w
      (sendBytes (if w.cfg.addrHighField then [ICP_ADDRESS_23B16, addrByte w.addr 2] else []) w) := by
    intro w
    by_cases hp : w.cfg.addrHighField = true
    · simp only [if_pos hp]
      exact .call (body := [.wire ICP_ADDRESS_23B16, .addrField 2]) (s' := w) (List.cons_ne_nil _ _)
        (fun rest => by simp [perform, State.running, hp, pushItems]) (hsel _ _ _ (by decide))
    · simp only [if_neg hp]
      exact .one fun rest => by simp [perform, State.running, hp, pushItems, sendBytes]
  have hop : ∀ w : State, Does [.readOpcode] w (sendByteMSBFirst (readOpcodeOf w.cb) w) := fun w =>
    .call (body := [.wire (readOpcodeOf w.cb)]) (s' := w) (List.cons_ne_nil _ _) (fun _ => rfl)
      (does_wire_command (by cases w.cb <;> decide) w)
  have hsends : ∀ (vs : List Byte) (w : State),
      (sendBytes vs w).addr = w.addr ∧ (sendBytes vs w).cb = w.cb ∧ (sendBytes vs w).cfg = w.cfg := by
    intro vs
    induction vs with
    | nil => exact fun w => ⟨rfl, rfl, rfl⟩
    | cons v vs ih =>
      intro w
      have := ih (sendByteMSBFirst v w)
      rw [sendByteMSBFirst_eq] at this
      simpa [sendBytes, sendByteMSBFirst_eq] using this
  have happ : ∀ (as bs : List Byte) (w : State), sendBytes (as ++ bs) w = sendBytes bs (sendBytes as w) :=
    fun as bs w => List.foldl_append
  simp only [readBytes, happ]
  generalize hw : sendBytes (if u.cfg.extraPreamble then preambleBytes else []) u = w at hpre ⊢
  obtain ⟨ha1, hc1, hf1⟩ := hsends (if u.cfg.extraPreamble then preambleBytes else []) u
  rw [hw] at ha1 hc1 hf1
  rw [← ha1, ← hc1, ← hf1]
  refine hpre.cons ?_
  have h0 := hsel ICP_ADDRESS_7B0 0 w (by decide)
  have h1 := hsel ICP_ADDRESS_15B8 1 (sendByteMSBFirst (addrByte w.addr 0) (sendByteMSBFirst ICP_ADDRESS_7B0 w))
    (by decide)
  rw [show (sendByteMSBFirst (addrByte w.addr 0) (sendByteMSBFirst ICP_ADDRESS_7B0 w)).addr = w.addr by
    rw [sendByteMSBFirst_eq, sendByteMSBFirst_eq]] at h1
  have h01 : Does [.wire ICP_ADDRESS_7B0, .addrField 0, .wire ICP_ADDRESS_15B8, .addrField 1] w
      (sendBytes [ICP_ADDRESS_7B0, addrByte w.addr 0, ICP_ADDRESS_15B8, addrByte w.addr 1] w) :=
    h0.append (List.cons_ne_nil _ _) h1
  generalize hx : sendBytes [ICP_ADDRESS_7B0, addrByte w.addr 0, ICP_ADDRESS_15B8, addrByte w.addr 1] w = x at h01 ⊢
  obtain ⟨ha2, hc2, hf2⟩ := hsends [ICP_ADDRESS_7B0, addrByte w.addr 0, ICP_ADDRESS_15B8, addrByte w.addr 1] w
  rw [hx] at ha2 hc2 hf2
  rw [← ha2, ← hc2, ← hf2]
  refine Does.append h01 (List.cons_ne_nil _ _) ((hhigh x).cons ?_)
  generalize hy : sendBytes (if x.cfg.addrHighField then [ICP_ADDRESS_23B16, addrByte x.addr 2] else []) x = y
  obtain ⟨ha3, hc3, hf3⟩ := hsends (if x.cfg.addrHighField then [ICP_ADDRESS_23B16, addrByte x.addr 2] else []) x
  rw [hy] at ha3 hc3 hf3
  rw [← hc3]
  exact (hop y).cons (does_recvBlock _)

end Sys2Proof.Machine
end

