-- ==== Sys2Proof/Tests/Slice0.lean ====
section
/-! SUPPORT. The model's own tests, every expected result taken from spec/95_test_vectors.md or worked out by hand
from the rule cited; then, for every statement with hypotheses, a witness that meets them together. -/

namespace Sys2Proof.Tests

open Sys2Proof Sys2Proof.Machine

/-- An initialised engine in a mode with the lines at given levels and both configuration inputs off. -/
def start (m : Mode) (clk din : Bool) : State :=
  { State.reset with cfg := ⟨false, false⟩, mode := m, oe := true, clk := clk, din := din }

/-- The engine just after hardware reset, both configuration inputs off. -/
def fresh : State := { State.reset with cfg := ⟨false, false⟩ }

/-- The eight samples that make a receive frame return a byte: bit 0 first (95_test_vectors.md, "Notation"). -/
def samplesFor (b : Byte) : List Bool :=
  [b.getLsbD 0, b.getLsbD 1, b.getLsbD 2, b.getLsbD 3, b.getLsbD 4, b.getLsbD 5, b.getLsbD 6, b.getLsbD 7]

/-- The target will present these bytes. -/
def responder (bs : List Byte) (s : State) : State := { s with dout := bs.flatMap samplesFor }

/-- The levels (CLK, DIN, MSEL). -/
def lines (s : State) : Bool × Bool × Bool := (s.clk, s.din, s.msel)

/-- The bits of a test table, written as 0 and 1. -/
def bits (ns : List Nat) : List Bool := ns.map (· == 1)

/-! ### Well-formedness (43_mode_switch.md R137) -/

theorem test_ill_formed_reset_as_target : (Instr.switchmode 0x01).wellFormed = false := by decide
theorem test_ill_formed_zero_target : (Instr.switchmode 0x00).wellFormed = false := by decide
theorem test_ill_formed_neighbours :
    ([0x95, 0x97, 0xA4, 0xA6, 0xFF] : List Byte).all (fun t => !(Instr.switchmode t).wellFormed) = true := by decide
theorem test_well_formed_targets :
    (Instr.switchmode 0x96).wellFormed = true ∧ (Instr.switchmode 0xA5).wellFormed = true := by decide

/-! ### Decoding: one word of each row, written out from 30_encoding.md R72 and R80 to R89 -/

theorem test_decode_handshake : decode (.command 0b0001_000_0_000000000000000000000000) = .ok .handshake := by decide
theorem test_decode_reset : decode (.command 0b0010_000_0_000000000000000000000000) = .ok .reset := by decide
theorem test_decode_switchmode :
    decode (.command 0b0011_000_0_0000000000000000_10100101) = .ok (.switchmode 0xA5) := by decide
theorem test_decode_switchmode_ignored_bits : decode (.command 0x3FFFFF96) = .ok (.switchmode 0x96) := by decide
theorem test_decode_check : decode (.command 0b0100_000_0_000000000000000000000000) = .ok .check := by decide
theorem test_decode_ping : decode (.command 0b0101_000_0_000000000000000000000000) = .ok .ping := by decide
theorem test_decode_readflash :
    decode (.command 0b0110_000_1_00010010_00110100_01010000) = .ok (.readflash 0x123450 true) := by decide
theorem test_decode_readflash_ignored_bits :
    decode (.command 0b0110_111_0_11111111_11111111_11110000) = .ok (.readflash 0xFFFFF0 false) := by decide
theorem test_decode_address_7b0 : decode (.wire 0b0100_0000) = .ok .icpAddress7b0 := by decide
theorem test_decode_address_15b8 : decode (.wire 0b0100_0001) = .ok .icpAddress15b8 := by decide
theorem test_decode_address_23b16 : decode (.wire 0b0100_1100) = .ok .icpAddress23b16 := by decide
theorem test_decode_icp_read : decode (.wire 0b0100_0100) = .ok .icpRead := by decide
theorem test_decode_icp_write : decode (.wire 0b0100_0010) = .ok .icpWrite := by decide
theorem test_decode_custom_block : decode (.wire 0b0100_1010) = .ok .icpReadCustomBlock := by decide
theorem test_decode_mode_icp : decode (.wire 0b1001_0110) = .ok .modeIcp := by decide
theorem test_decode_mode_alt : decode (.wire 0b1010_0101) = .ok .modeAlt := by decide
theorem test_decode_op_probe : decode (.wire 0b0100_0011) = .ok .opProbe := by decide
theorem test_decode_op_ping : decode (.wire 0b0100_1001) = .ok .opPing := by decide
theorem test_decode_op_pre : decode (.wire 0b0100_0110) = .ok .opPre := by decide

/-- R74: `OP` 0 and 7 to 15 select nothing. -/
theorem test_decode_reserved :
    decode (.command 0x00000000) = .error (.reservedOp 0x0) ∧ decode (.command 0x70000000) = .error (.reservedOp 0x7) ∧
      decode (.command 0xF0000000) = .error (.reservedOp 0xF) := by decide
/-- R91: a data literal is no wire value. -/
theorem test_decode_literals_are_no_wire_values :
    decode (.wire 0x69) = .error (.notAWireValue 0x69) ∧ decode (.wire 0xFF) = .error (.notAWireValue 0xFF) := by decide

/-- The words of programs P1 to P5. -/
theorem test_encode_words :
    encode .handshake = .command 0x10000000 ∧ encode .reset = .command 0x20000000 ∧
      encode (.switchmode 0xA5) = .command 0x300000A5 ∧ encode .check = .command 0x40000000 ∧
      encode .ping = .command 0x50000000 ∧ encode (.readflash 0x123450 true) = .command 0x61123450 := by decide
theorem test_table_word :
    decodeTableWord 32 0x60001230 = some (.readflash 0x001230 false) ∧ decodeTableWord 8 0x4C = some .icpAddress23b16 ∧
      decodeTableWord 32 0xF0000000 = none := by decide

/-! ### Line events and primitives (95_test_vectors.md 2.1 and 2.2) -/

/-- V-LE1. -/
theorem test_cfg_configures : (cfgLines fresh).oe = true ∧ (cfgLines fresh).trace = [.cfg] := by
  exact ⟨rfl, rfl⟩
/-- V-LE4: a drive to the level a line has is an event. -/
theorem test_drive_same_level : (driveLine .din false (start .icpMode false false)).trace = [.clr .din] := by decide
/-- V-LE7: `Smp` records and returns the draw. -/
theorem test_sample :
    (smpDout (responder [0x01] (start .icpMode false false))).trace = [.smp true] ∧
      (smpDout (responder [0x01] (start .icpMode false false))).draws = 1 := by decide
/-- V-P1. -/
theorem test_pulse_clocks : (pulseClocks 6 (start .icpMode false false)).trace = repeated 6 pulseEvents := by decide
/-- V-RX: samples 1,1,0,0,0,1,0,0 make 0x23. -/
theorem test_receive :
    (receiveByte { start .icpMode false true with dout := bits [1, 1, 0, 0, 0, 1, 0, 0] }).acc = 0x23 := by decide

/-! ### Host commands -/

/-- V-HS: the first nine events, whatever the free latch levels. -/
theorem test_handshake_wake :
    (handshakeWake fresh).trace =
      [.cfg, .set .clk, .set .din, .set .msel, .wait 500, .clr .clk, .wait 1, .set .clk, .wait 50] := by
  rw [State.trace, handshakeWake_eq]
  decide
/-- V-HS: stages S9 to S12 are 3 + 48 + 2 events and the settle, and the whole ends in ModeReset with (1,0,0). -/
theorem test_handshake_end :
    (handshakeMode (start .uninitialized true true)).trace.length = 54 ∧
      (runHandshake fresh).mode = .modeReset ∧ lines (runHandshake fresh) = (true, false, false) := by
  refine ⟨by decide, by rw [runHandshake_eq], ?_⟩
  rw [runHandshake_eq]
  rfl

/-- V-RS2. -/
theorem test_reset_from_icp :
    (runReset (start .icpMode false false)).trace = [.set .clk, .set .msel, .wait 2, .clr .msel, .wait 2] ∧
      lines (runReset (start .icpMode false false)) = (true, false, false) := by decide
set_option maxRecDepth 8000 in
/-- V-RS3. -/
theorem test_reset_from_alt :
    (runReset (start .altMode false true)).trace.length = 142 ∧
      waitSum (runReset (start .altMode false true)).trace = 140 ∧
      lines (runReset (start .altMode false true)) = (true, true, false) := by decide

/-- V-SW1. -/
theorem test_switchmode_icp :
    waitSum (runSwitch 0x96 (start .modeReset true false)).trace = 860 ∧
      lines (runSwitch 0x96 (start .modeReset true false)) = (false, false, false) ∧
      (runSwitch 0x96 (start .modeReset true false)).mode = .icpMode := by decide
/-- V-SW4: 5 + 84 events, lines (0,1,0). -/
theorem test_switchmode_alt :
    (runSwitch 0xA5 (start .icpMode false false)).trace.length = 89 ∧
      lines (runSwitch 0xA5 (start .icpMode false false)) = (false, true, false) ∧
      (runSwitch 0xA5 (start .icpMode false false)).mode = .altMode := by decide

set_option maxRecDepth 8000 in
/-- V-CHK1: 361 events, 72 pulses, echo found. -/
theorem test_check_echo :
    (runCheck (responder [0x69, 0x00] (start .icpMode false false))).trace.length = 361 ∧
      pulseCount (runCheck (responder [0x69, 0x00] (start .icpMode false false))).trace = 72 ∧
      (runCheck (responder [0x69, 0x00] (start .icpMode false false))).chk = true := by decide
set_option maxRecDepth 8000 in
/-- V-CHK3: the bit-reversed echo in the first place does not count, nor the echo in the second. -/
theorem test_check_reversed :
    (runCheck (responder [0x96, 0x69] (start .icpMode false false))).chk = false := by decide

/-- R150, R80, R81, R87, R90: which bytes of CHECK stand as opcodes in the sequencer and which as data. -/
theorem test_check_items :
    checkItems =
      [.clr .clk, .wire 0x40, .data 0x69, .wire 0x41, .data 0xFF, .data 0xFF, .wire 0x43, .receive, .holdFirst] := by
  decide

/-- V-PG1. -/
theorem test_ping :
    dinAtPulses false (runPing (start .icpMode false false)).trace =
      bits [0, 1, 0, 0, 1, 0, 0, 1, 0, 1, 1, 1, 1, 1, 1, 1, 1, 0] := by decide
/-- V-PG2: 90 events, the first `Set(CLK)` makes no edge. -/
theorem test_ping_with_clk_high :
    (runPing (start .modeReset true false)).trace.length = 90 ∧
      risingEdges .clk true (runPing (start .modeReset true false)).trace = 17 := by decide

/-- V-RF4: the bytes sent after the ping, with the preamble and without the third field. -/
theorem test_readflash_bytes :
    readBytes ⟨true, false⟩ 0x001230 false = [0x46, 0xFE, 0xFF, 0x40, 0x30, 0x41, 0x12, 0x44] ∧
      readBytes ⟨true, true⟩ 0xFFFFF0 true = [0x46, 0xFE, 0xFF, 0x40, 0xF0, 0x41, 0xFF, 0x4C, 0xFF, 0x4A] := by decide
set_option maxRecDepth 8000 in
/-- P2: the first and last bytes of the block, in order. -/
theorem test_readflash_block :
    (receiveBlock (responder [0x02, 0x01, 0x23, 0x45, 0x67, 0x89, 0xAB, 0xCD, 0xEF, 0x00, 0xFF, 0x80, 0x01, 0x55,
      0xAA, 0x22] (start .icpMode false false))).rbuf =
      [(0, 0x02), (1, 0x01), (2, 0x23), (3, 0x45), (4, 0x67), (5, 0x89), (6, 0xAB), (7, 0xCD), (8, 0xEF),
        (10, 0xFF), (11, 0x80), (12, 0x01), (13, 0x55), (14, 0xAA), (15, 0x22)] := by decide

/-- V-SW9: both reasons apply, `BadTarget` is reported. -/
theorem test_refusal_order : (runSwitch 0x00 fresh).refusal = some .badTarget ∧ (runSwitch 0x00 fresh).err = true := by
  decide
/-- V-RF-e: a command runs normally with `ERR` set, and `ERR` stays. -/
theorem test_err_does_not_block :
    step { start .modeReset true false with err := true, inputs := [.call 0x50000000] } =
      .next { runPing { start .modeReset true false with err := true, inputs := [] } with err := true } := by rfl

/-! ### Wire values: DIN per pulse (V-TX, V-MD) -/

theorem test_wire_address_7b0 :
    dinAtPulses true (sendByteMSBFirst ICP_ADDRESS_7B0 (start .icpMode false true)).trace =
      bits [0, 1, 0, 0, 0, 0, 0, 0, 0] := by decide
theorem test_wire_address_15b8 :
    dinAtPulses true (sendByteMSBFirst ICP_ADDRESS_15B8 (start .icpMode false true)).trace =
      bits [0, 1, 0, 0, 0, 0, 0, 1, 0] := by decide
theorem test_wire_address_23b16 :
    dinAtPulses true (sendByteMSBFirst ICP_ADDRESS_23B16 (start .icpMode false true)).trace =
      bits [0, 1, 0, 0, 1, 1, 0, 0, 0] := by decide
theorem test_wire_icp_read :
    dinAtPulses true (sendByteMSBFirst ICP_READ (start .icpMode false true)).trace =
      bits [0, 1, 0, 0, 0, 1, 0, 0, 0] := by decide
theorem test_wire_icp_write :
    dinAtPulses true (sendByteMSBFirst ICP_WRITE (start .icpMode false true)).trace =
      bits [0, 1, 0, 0, 0, 0, 1, 0, 0] := by decide
theorem test_wire_custom_block :
    dinAtPulses true (sendByteMSBFirst ICP_READ_CUSTOM_BLOCK (start .icpMode false true)).trace =
      bits [0, 1, 0, 0, 1, 0, 1, 0, 0] := by decide
theorem test_wire_op_probe :
    dinAtPulses true (sendByteMSBFirst OP_PROBE (start .icpMode false true)).trace =
      bits [0, 1, 0, 0, 0, 0, 1, 1, 0] := by decide
theorem test_wire_op_ping :
    dinAtPulses true (sendByteMSBFirst OP_PING (start .icpMode false true)).trace =
      bits [0, 1, 0, 0, 1, 0, 0, 1, 0] := by decide
theorem test_wire_op_pre :
    dinAtPulses true (sendByteMSBFirst OP_PRE (start .icpMode false true)).trace =
      bits [0, 1, 0, 0, 0, 1, 1, 0, 0] := by decide
theorem test_wire_mode_icp :
    dinAtPulses true (sendModeByte MODE_ICP (start .modeReset false true)).trace =
      bits [1, 0, 0, 1, 0, 1, 1, 0, 0, 0] := by decide
theorem test_wire_mode_alt :
    dinAtPulses true (sendModeByte MODE_ALT (start .modeReset false false)).trace =
      bits [1, 0, 1, 0, 0, 1, 0, 1, 1, 1] := by decide

/-! ### The host port and the sequencer -/

/-- P1: STATUS after a successful CHECK in IcpMode. -/
theorem test_status_after_check :
    statusRead 0 { start .icpMode false false with chk := true, chkValid := true } = 0x00009602 := by decide
/-- P4: STATUS in ModeReset with `ERR` set, the unspecified `CHK` at 0 and at 1. -/
theorem test_status_with_err :
    statusRead 0 { start .modeReset true false with err := true } = 0x00000104 ∧
      statusRead 2 { start .modeReset true false with err := true } = 0x00000106 := by decide
/-- V-SW8 in both forms of the write: a refused command leaves the latches (60_exceptions.md R185). -/
theorem test_refused_command_keeps_the_latches :
    let s : State := { fresh with addr := 0x123450, cb := true, tgt := 0x50 }
    step { s with inputs := [.call 0x30000096] } = .next { s with err := true, refusal := some .notInitialized } ∧
      advance (acceptCommand 0x30000096 s) = { s with err := true, refusal := some .notInitialized } := ⟨rfl, rfl⟩
/-- Register 32 does not exist. -/
theorem test_outside_window : step { fresh with inputs := [.read 32] } = .fault (.outsideWindow 32) := by rfl
/-- PING action by action: after acceptance the sequencer stands at the operation, and the first line event comes
with the sixth action, after the guard, the call of PING, the frame, its bit index and the bit. -/
theorem test_sequencer_first_event :
    (advanceN 5 (acceptCommand 0x50000000 (start .icpMode false false))).trace = [] ∧
      (advanceN 6 (acceptCommand 0x50000000 (start .icpMode false false))).trace = [.clr .din] := by decide
/-- `withFetchWord` places a command word and a wire value where the next step takes them. -/
theorem test_fetch_word :
    step (fresh.withFetchWord 32 0x20000000) = exec .reset { fresh with inputs := [] } ∧
      step (fresh.withFetchWord 8 0x49) =
        .next { sendByteMSBFirst OP_PING { fresh with busy := true, inputs := [] } with busy := false } :=
  ⟨rfl, rfl⟩

/-! ### Witnesses: states and operands that meet the hypotheses of the statements -/

/-- A next state of `exec` there always is. -/
theorem witness_exec (i : Instr) (s : State) : ∃ t, exec i s = .next t := exec_next i s

theorem witness_EncodeOfDecodedCommandKeepsItsUsedBits :
    decode (.command 0x3FFFFF96) = .ok (.switchmode 0x96) ∧ decode (.command 0x6E123456) = .ok (.readflash 0x123456 false) := by
  decide

/-- `OP` at each of 1 to 6, then 0, 7 and 15, with every other bit set. -/
theorem witness_CommandWordsDecodeExactlyForOpOneToSix :
    ((0x1FFFFFFF : Word).extractLsb' 28 4 = 1 ∧ (0x2FFFFFFF : Word).extractLsb' 28 4 = 2 ∧
      (0x3FFFFFFF : Word).extractLsb' 28 4 = 3 ∧ (0x4FFFFFFF : Word).extractLsb' 28 4 = 4 ∧
      (0x5FFFFFFF : Word).extractLsb' 28 4 = 5 ∧ (0x6FFFFFFF : Word).extractLsb' 28 4 = 6) ∧
    ((0x0FFFFFFF : Word).extractLsb' 28 4).toNat = 0 ∧ ((0x7FFFFFFF : Word).extractLsb' 28 4).toNat = 7 ∧
      ((0xFFFFFFFF : Word).extractLsb' 28 4).toNat = 15 := by decide

/-- The first and the last row, and the two ends and a data literal among the bytes that are no wire value. -/
theorem witness_WireValuesAreExactlyElevenBytes :
    let bytes : List Byte := [0x40, 0x41, 0x4C, 0x44, 0x42, 0x4A, 0x96, 0xA5, 0x43, 0x49, 0x46]
    (0x40 ∈ bytes ∧ 0x46 ∈ bytes) ∧ 0x00 ∉ bytes ∧ 0x69 ∉ bytes ∧ 0xFF ∉ bytes := by decide

/-- One command for each clause: accepted; a target that is none; before HANDSHAKE. -/
theorem witness_CallStepRunsTheDecodedCommand :
    let s : State := { start .icpMode false false with inputs := [.call 0x61123450] }
    let t : State := { start .icpMode false false with inputs := [.call 0x30000001] }
    let u : State := { fresh with inputs := [.call 0x30000096] }
    (s.busy = false ∧ s.inputs = .call 0x61123450 :: [] ∧ decode (.command 0x61123450) = .ok (.readflash 0x123450 true) ∧
        s.mode ≠ .uninitialized ∧ ∀ x, Instr.readflash 0x123450 true = .switchmode x → x = 0x96 ∨ x = 0xA5) ∧
      (t.busy = false ∧ t.inputs = .call 0x30000001 :: [] ∧ decode (.command 0x30000001) = .ok (.switchmode 0x01) ∧
        (0x01 : Byte) ≠ 0x96 ∧ (0x01 : Byte) ≠ 0xA5) ∧
      u.busy = false ∧ u.inputs = .call 0x30000096 :: [] ∧ decode (.command 0x30000096) = .ok (.switchmode 0x96) ∧
        u.mode = .uninitialized ∧ Instr.switchmode 0x96 ≠ .handshake ∧
        ∀ x, Instr.switchmode 0x96 = .switchmode x → x = 0x96 ∨ x = 0xA5 :=
  ⟨⟨rfl, rfl, rfl, by decide, by simp⟩, ⟨rfl, rfl, rfl, by decide, by decide⟩, rfl, rfl, rfl, rfl, by simp,
    fun _ h => .inl (Instr.switchmode.inj h).symm⟩

/-- A sequencer for each clause: a wire value, a data byte, a receive frame; then a pulse, a byte that is no wire
value, and nothing. -/
theorem witness_FrameStepRunsTheDecodedWireValue :
    let s (l : List Item) : State := { start .icpMode false false with busy := true, seq := l, inputs := [.frame] }
    (∀ l, (s l).busy = true ∧ (s l).inputs = .frame :: []) ∧
      ((s [.wire 0x49, .data 0xFF]).seq = .wire 0x49 :: [.data 0xFF] ∧ decode (.wire 0x49) = .ok .opPing) ∧
      (s [.data 0xFF]).seq = .data 0xFF :: [] ∧ (s [.receive]).seq = .receive :: [] ∧
      ∀ l ∈ ([[.pulse], [.wire 0x69], []] : List (List Item)),
        (∀ b i, (s l).seq.head? = some (.wire b) → decode (.wire b) ≠ .ok i) ∧
          (∀ v, (s l).seq.head? ≠ some (.data v)) ∧ (s l).seq.head? ≠ some .receive := by
  refine ⟨fun _ => ⟨rfl, rfl⟩, ⟨rfl, rfl⟩, rfl, rfl, fun l hl => ?_⟩
  simp only [List.mem_cons, List.not_mem_nil, or_false] at hl
  rcases hl with rfl | rfl | rfl
  · exact ⟨by simp, by simp, by simp⟩
  · refine ⟨fun b i h => ?_, by simp, by simp⟩
    obtain rfl : (0x69 : Byte) = b := by simpa using h
    exact fun h => nomatch (show decode (.wire 0x69) = .error (.notAWireValue 0x69) from rfl).symm.trans h
  · exact ⟨by simp, by simp, by simp⟩

/-- Both forms of the write; `OP` at 0, 7 and 15. -/
theorem witness_ReservedOpSetsErrAndNothingElse :
    let s : State := { fresh with inputs := [.call 0x00000000] }
    let t : State := { fresh with inputs := [.write 0 0x70000000] }
    (s.busy = false ∧ s.inputs = .call 0x00000000 :: [] ∧ ((0x00000000 : Word).extractLsb' 28 4).toNat = 0) ∧
    (t.busy = false ∧ t.inputs = .write 0 0x70000000 :: [] ∧ 7 ≤ ((0x70000000 : Word).extractLsb' 28 4).toNat) ∧
    7 ≤ ((0xF0000000 : Word).extractLsb' 28 4).toNat := by decide

/-- Nothing outside, a tick, and both forms of the write. -/
theorem witness_CommandWriteWaitsAtThePortWhileBusy :
    let s (l : List Input) : State := { start .icpMode false false with busy := true, seq := [.pulse], inputs := l }
    ((s []).busy = true ∧ (s []).inputs = []) ∧ ((s [.tick]).busy = true ∧ (s [.tick]).inputs = .tick :: []) ∧
      ((s [.call 0x50000000]).busy = true ∧ (s [.call 0x50000000]).inputs = .call 0x50000000 :: []) ∧
      (s [.write 0 0x50000000]).busy = true ∧ (s [.write 0 0x50000000]).inputs = .write 0 0x50000000 :: [] := by
  decide

/-- One command for each clause: accepted; a target that is none; before HANDSHAKE, where HANDSHAKE is accepted. -/
theorem witness_AcceptanceLatchesTheOperandsAndRaisesBusy :
    let s : State := { start .icpMode false false with inputs := [.write 0 0x300000A5] }
    let t : State := { start .icpMode false false with inputs := [.write 0 0x30000001] }
    let u : State := { fresh with inputs := [.write 0 0x61123450] }
    let v : State := { fresh with inputs := [.write 0 0x10000000] }
    (s.busy = false ∧ s.inputs = .write 0 0x300000A5 :: [] ∧ decode (.command 0x300000A5) = .ok (.switchmode 0xA5) ∧
        s.mode ≠ .uninitialized ∧ ∀ x, Instr.switchmode 0xA5 = .switchmode x → x = 0x96 ∨ x = 0xA5) ∧
      (t.busy = false ∧ t.inputs = .write 0 0x30000001 :: [] ∧ decode (.command 0x30000001) = .ok (.switchmode 0x01) ∧
        (0x01 : Byte) ≠ 0x96 ∧ (0x01 : Byte) ≠ 0xA5) ∧
      (u.busy = false ∧ u.inputs = .write 0 0x61123450 :: [] ∧
        decode (.command 0x61123450) = .ok (.readflash 0x123450 true) ∧ u.mode = .uninitialized ∧
        Instr.readflash 0x123450 true ≠ .handshake ∧
        ∀ x, Instr.readflash 0x123450 true = .switchmode x → x = 0x96 ∨ x = 0xA5) ∧
      v.busy = false ∧ v.inputs = .write 0 0x10000000 :: [] ∧ decode (.command 0x10000000) = .ok .handshake :=
  ⟨⟨rfl, rfl, rfl, by decide, fun _ h => .inr (Instr.switchmode.inj h).symm⟩,
    ⟨rfl, rfl, rfl, by decide, by decide⟩, ⟨rfl, rfl, rfl, rfl, by simp, by simp⟩, rfl, rfl, rfl⟩

/-- Idle engines for the first clause, a busy one with a frame to come for the second. -/
theorem witness_SequencerRunsToTheResultOfTheInstruction :
    let s : State := { start .icpMode false false with busy := true, seq := [.receive, .storeByte], inputs := [.frame] }
    ((start .altMode false true).Idle ∧ fresh.Idle) ∧ s.busy = true ∧ s.inputs = .frame :: [] :=
  ⟨⟨⟨rfl, rfl⟩, rfl, rfl⟩, rfl, rfl⟩

theorem witness_TraceOnlyGrowsWithoutHardwareReset :
    let s : State := { start .icpMode false false with inputs := [.call 0x50000000] }
    (∃ t, step s = .next t) ∧ s.inputs.head? ≠ some .hardReset := ⟨⟨_, rfl⟩, by decide⟩

theorem witness_ErrIsClearedByHardwareResetOnly :
    let s : State := { start .icpMode false false with err := true, inputs := [.call 0x50000000] }
    (∃ t, step s = .next t) ∧ s.inputs.head? ≠ some .hardReset ∧ s.err = true := ⟨⟨_, rfl⟩, by decide, rfl⟩

theorem witness_ConfigurationNeverChanges :
    ∃ t, step { start .icpMode false false with inputs := [.hardReset] } = .next t := ⟨_, rfl⟩

theorem witness_HardwareResetEndsAnyOperation :
    ({ start .icpMode false false with busy := true, seq := [.pulse], inputs := [.hardReset] } : State).inputs =
      .hardReset :: [] := rfl

theorem witness_IdleEngineChangesNothing :
    (start .icpMode false false).busy = false ∧ (start .icpMode false false).inputs = [] := ⟨rfl, rfl⟩

/-- Register 32 read and written, idle and busy; then registers 31 and 0, and an engine with nothing at its port. -/
theorem witness_StepStopsOnlyOutsideTheWindow :
    let s (l : List Input) : State := { fresh with inputs := l }
    let t (l : List Input) : State := { fresh with busy := true, seq := [.pulse], inputs := l }
    (32 ≤ 32 ∧ (s [.read 32]).inputs.head? = some (.read 32) ∧ (t [.write 32 0]).inputs.head? = some (.write 32 0)) ∧
      ∀ l ∈ ([[.read 31], [.write 31 0], [.write 0 0x10000000], []] : List (List Input)), ∀ n,
        (s l).inputs.head? = some (.read n) ∨ (∃ w, (s l).inputs.head? = some (.write n w)) → n < 32 := by
  refine ⟨⟨by decide, rfl, rfl⟩, fun l hl n h => ?_⟩
  simp only [List.mem_cons, List.not_mem_nil, or_false] at hl
  rcases hl with rfl | rfl | rfl | rfl <;> simp at h <;> omega

/-- A busy engine in the invariant takes a step. -/
theorem witness_InvariantIsKeptByEveryStep :
    let s : State := { start .icpMode false false with busy := true, seq := [.wire 0x49, .data 0xFF] }
    Inv s ∧ ∃ t, step s = .next t :=
  ⟨⟨rfl, rfl, rfl, by decide, fun _ => rfl, rfl⟩, _, rfl⟩

/-- Registers 0 and 31, idle and busy. -/
theorem witness_WindowReadHasNoSideEffect :
    (0 < 32 ∧ ({ fresh with inputs := [.read 0] } : State).inputs = .read 0 :: []) ∧
      31 < 32 ∧ ({ fresh with busy := true, seq := [.pulse], inputs := [.read 31] } : State).inputs = .read 31 :: [] := by
  decide

theorem witness_StatusReadGivesItsFields :
    let s : State := { start .altMode false true with chk := true, chkValid := true, inputs := [.read 1] }
    s.inputs = .read 1 :: [] ∧ s.busy = false ∧ s.chkValid = true := by decide

/-- Each clause at the ends of its range: 2; 3 and 15; 16 and 31 with a completed READFLASH. -/
theorem witness_ConfigReservedAndBufferReads :
    let s (n : Nat) : State := { start .icpMode false false with rbufValid := true, inputs := [.read n] }
    (s 2).inputs = .read 2 :: [] ∧
      ((s 3).inputs = .read 3 :: [] ∧ 3 ≤ 3 ∧ 3 ≤ 15) ∧ ((s 15).inputs = .read 15 :: [] ∧ 3 ≤ 15 ∧ 15 ≤ 15) ∧
      ((s 16).inputs = .read 16 :: [] ∧ 16 ≤ 16 ∧ 16 ≤ 31 ∧ (s 16).busy = false ∧ (s 16).rbufValid = true) ∧
      ((s 31).inputs = .read 31 :: [] ∧ 16 ≤ 31 ∧ 31 ≤ 31 ∧ (s 31).busy = false ∧ (s 31).rbufValid = true) := by decide

/-- Registers 1 and 31. -/
theorem witness_WritesOutsideCmdAreIgnored :
    (1 ≤ 1 ∧ 1 < 32 ∧ ({ fresh with inputs := [.write 1 0xFF] } : State).inputs = .write 1 0xFF :: []) ∧
      1 ≤ 31 ∧ 31 < 32 ∧ ({ fresh with inputs := [.write 31 0xFF] } : State).inputs = .write 31 0xFF :: [] := by decide

/-- V-RT: 0x96 with both responders. -/
theorem witness_SentByteComesBackThroughAReversingResponder :
    ({ start .icpMode false false with dout := bits [0, 1, 1, 0, 1, 0, 0, 1] } : State).dout =
        [(0x96 : Byte).getLsbD 0, (0x96 : Byte).getLsbD 1, (0x96 : Byte).getLsbD 2, (0x96 : Byte).getLsbD 3,
          (0x96 : Byte).getLsbD 4, (0x96 : Byte).getLsbD 5, (0x96 : Byte).getLsbD 6, (0x96 : Byte).getLsbD 7] ++ [] ∧
      ({ start .icpMode false false with dout := bits [1, 0, 0, 1, 0, 1, 1, 0] } : State).dout =
        [(0x96 : Byte).getLsbD 7, (0x96 : Byte).getLsbD 6, (0x96 : Byte).getLsbD 5, (0x96 : Byte).getLsbD 4,
          (0x96 : Byte).getLsbD 3, (0x96 : Byte).getLsbD 2, (0x96 : Byte).getLsbD 1, (0x96 : Byte).getLsbD 0] ++ [] := by
  decide

/-- The first and the last row, and the opcode no operation emits. -/
theorem witness_CommandFrameWireValuesRun :
    let rows : List (Instr × Byte) :=
      [(.icpAddress7b0, 0x40), (.icpAddress15b8, 0x41), (.icpAddress23b16, 0x4C), (.icpRead, 0x44),
        (.icpWrite, 0x42), (.icpReadCustomBlock, 0x4A), (.opProbe, 0x43), (.opPing, 0x49), (.opPre, 0x46)]
    (.icpAddress7b0, 0x40) ∈ rows ∧ (.icpWrite, 0x42) ∈ rows ∧ (.opPre, 0x46) ∈ rows := by decide

theorem witness_HandshakeSizes : ∃ t, exec .handshake fresh = .next t := ⟨_, rfl⟩

theorem witness_ResetInModeResetDoesNothing :
    let s : State := { start .modeReset true false with inputs := [.write 0 0x20000000] }
    (start .modeReset true false).mode = .modeReset ∧
      (s.Idle ∧ s.mode = .modeReset ∧ s.inputs = .write 0 0x20000000 :: [] ∧
        decode (.command 0x20000000) = .ok .reset) ∧
      ((start .altMode false true).mode ≠ .uninitialized ∧ ∃ t, exec .reset (start .altMode false true) = .next t) :=
  ⟨rfl, ⟨⟨rfl, rfl⟩, rfl, rfl, rfl⟩, by decide, _, rfl⟩

/-- The three initialised modes, for every statement whose hypothesis is `mode ≠ Uninitialized`: RESET, PING,
CHECK, READFLASH. -/
theorem witness_initialized_modes :
    (start .modeReset true false).mode ≠ .uninitialized ∧ (start .icpMode false false).mode ≠ .uninitialized ∧
      (start .altMode false true).mode ≠ .uninitialized := by decide

theorem witness_ResetRunsTheBranchOfTheMode :
    (start .modeReset true false).mode ≠ .uninitialized ∧ (start .icpMode false false).mode ≠ .uninitialized ∧
      (start .altMode false true).mode ≠ .uninitialized := witness_initialized_modes

theorem witness_SwitchmodeIsIdempotent :
    (start .icpMode false false).mode = .icpMode ∧ (start .altMode false true).mode = .altMode ∧
      ((start .modeReset true false).mode ≠ .uninitialized ∧
        ∃ t, exec (.switchmode 0xA5) (start .modeReset true false) = .next t) := ⟨rfl, rfl, by decide, _, rfl⟩

theorem witness_SwitchmodeEntersFromModeReset : (start .modeReset true false).mode = .modeReset := rfl

theorem witness_SwitchmodeBetweenActiveModesGoesThroughReset :
    (start .altMode false true).mode = .altMode ∧ (start .icpMode false false).mode = .icpMode := ⟨rfl, rfl⟩

/-- The neighbours of the two legal targets and the two ends. -/
theorem witness_SwitchmodeRefusesEveryOtherTarget :
    ([0x00, 0x95, 0x97, 0xA4, 0xA6, 0xFF] : List Byte).all (fun t => t ≠ 0x96 ∧ t ≠ 0xA5) = true := by decide

/-- All five commands the statement is about. -/
theorem witness_UninitializedEngineRefusesAllButHandshake :
    fresh.mode = .uninitialized ∧
      ([.reset, .switchmode 0x96, .switchmode 0xA5, .check, .ping, .readflash 0 false] : List Instr).all
        (fun i => i.isCommand = true ∧ i ≠ .handshake ∧ i.wellFormed = true) = true := by decide

/-- Every row of the table: its mode is the mode of a state. -/
theorem witness_ResetAndSwitchmodeSizes :
    (start .modeReset true false).mode = .modeReset ∧ (start .icpMode false false).mode = .icpMode ∧
      (start .altMode false true).mode = .altMode ∧
      (∃ t, exec .reset (start .altMode false true) = .next t) ∧
      (∃ t, exec (.switchmode 0x96) (start .altMode false true) = .next t) ∧
      ∃ t, exec (.switchmode 0xA5) (start .icpMode false false) = .next t :=
  ⟨rfl, rfl, rfl, ⟨_, rfl⟩, ⟨_, rfl⟩, _, rfl⟩

theorem witness_ResetFromAltModeEdges :
    (start .altMode false true).mode = .altMode ∧ (start .altMode false true).clk = false ∧
      ∃ t, exec .reset (start .altMode false true) = .next t := ⟨rfl, rfl, _, rfl⟩

theorem witness_PingSendsItsTwoFrames : (start .modeReset true false).mode ≠ .uninitialized := by decide

/-- CLK high and CLK low. -/
theorem witness_PingEnteredWithClkHighLosesOneRisingEdge :
    ((start .modeReset true false).mode ≠ .uninitialized ∧ (start .modeReset true false).clk = true ∧
        ∃ t, exec .ping (start .modeReset true false) = .next t) ∧
      (start .icpMode false false).mode ≠ .uninitialized ∧ (start .icpMode false false).clk = false ∧
        ∃ t, exec .ping (start .icpMode false false) = .next t :=
  ⟨⟨by decide, rfl, _, rfl⟩, by decide, rfl, _, rfl⟩

theorem witness_CheckComparesTheFirstByteReceived : (start .icpMode false false).mode ≠ .uninitialized := by decide

/-- The echo, and a reply that is not the echo. -/
theorem witness_CheckSucceedsExactlyOnTheEchoSamples :
    let s := responder [0x69, 0x00] (start .icpMode false false)
    let u := responder [0x96, 0x69] (start .icpMode false false)
    (s.mode ≠ .uninitialized ∧ (∃ t, exec .check s = .next t) ∧
        (List.range 8).map s.drawAt = [true, false, false, true, false, true, true, false]) ∧
      u.mode ≠ .uninitialized ∧ (∃ t, exec .check u = .next t) ∧
        (List.range 8).map u.drawAt ≠ [true, false, false, true, false, true, true, false] :=
  ⟨⟨by decide, ⟨_, rfl⟩, by decide⟩, by decide, ⟨_, rfl⟩, by decide⟩

theorem witness_ReadflashRunsItsPhases : (start .altMode false true).mode ≠ .uninitialized := by decide

/-- Both ends of the buffer and the first address after it. -/
theorem witness_ReadflashFillsTheBufferInOrder :
    (start .icpMode false false).mode ≠ .uninitialized ∧ (start .icpMode false false).rbuf.wf = true ∧
      (∃ t, exec (.readflash 0x001230 false) (start .icpMode false false) = .next t) ∧ 0 < 16 ∧ 15 < 16 ∧ 16 ≤ 16 :=
  ⟨by decide, rfl, ⟨_, rfl⟩, by decide, by decide, by decide⟩

theorem witness_CbChoosesTheReadOpcodeOnly : (start .modeReset true false).mode ≠ .uninitialized := by decide

/-- The first and the last frame of the block. -/
theorem witness_DataPhaseIsSixteenReceiveFrames :
    ((start .icpMode false false).mode ≠ .uninitialized ∧ (start .icpMode false false).rbuf.wf = true ∧
        ∃ t, exec (.readflash 0x001230 true) (start .icpMode false false) = .next t) ∧
      0 < 16 ∧ 15 < 16 ∧ 0 < 1 ∧ 15 < 16 :=
  ⟨⟨by decide, rfl, _, rfl⟩, by decide, by decide, by decide, by decide⟩

theorem witness_ReadflashIgnoresTheHighByteWhenNotConfigured :
    (start .icpMode false false).cfg.addrHighField = false ∧
      (0x123456 : Addr24).extractLsb' 0 16 = (0xFF3456 : Addr24).extractLsb' 0 16 := by decide

theorem witness_ReadflashSizes :
    (start .altMode false true).mode ≠ .uninitialized ∧
      ∃ t, exec (.readflash 0x123456 true) (start .altMode false true) = .next t := ⟨by decide, _, rfl⟩

theorem witness_ModeTransitionsAreTheLegalOnes :
    (∃ t, exec .handshake fresh = .next t) ∧ (∃ t, exec .reset fresh = .next t) ∧
      (∃ t, exec (.switchmode 0x00) (start .altMode false true) = .next t) ∧
      (∃ t, exec (.readflash 0 false) (start .altMode false true) = .next t) ∧
      (∃ t, exec .check (start .altMode false true) = .next t) ∧ ∃ t, exec .icpWrite fresh = .next t :=
  ⟨⟨_, rfl⟩, ⟨_, rfl⟩, ⟨_, rfl⟩, ⟨_, rfl⟩, ⟨_, rfl⟩, _, rfl⟩

theorem witness_EachResultHasOneWriter :
    (∃ t, exec .ping (start .icpMode false false) = .next t) ∧ (∀ a c, Instr.ping ≠ .readflash a c) ∧
      Instr.ping ≠ .check := ⟨⟨_, rfl⟩, by simp, by decide⟩

theorem witness_OnlyCheckAndReadflashSample :
    (∃ t, exec (.switchmode 0x96) (start .altMode false true) = .next t) ∧ Instr.switchmode 0x96 ≠ .check ∧
      ∀ a c, Instr.switchmode 0x96 ≠ .readflash a c := ⟨⟨_, rfl⟩, by decide, by simp⟩

theorem witness_DrawsChangeOnlyWhatIsReadFromThem :
    (∃ t, exec .check (start .icpMode false false) = .next t) ∧
      ∃ t, exec .check { start .icpMode false false with dout := bits [1, 1, 1], draws := 7 } = .next t :=
  ⟨⟨_, rfl⟩, _, rfl⟩

/-- Both clauses; for the second a state that fits each row. -/
theorem witness_LineLevelsFitAfterEveryCommand :
    (Instr.check.isCommand = true ∧ LevelsFit (start .altMode false true) ∧
      ∃ t, exec .check (start .altMode false true) = .next t) ∧
    LevelRow.undriven.fits fresh ∧ LevelRow.resetByHandshake.fits (start .modeReset true false) ∧
      (LevelRow.resetByReset false).fits (start .modeReset true false) ∧
      (LevelRow.resetByReset true).fits (start .modeReset true true) ∧ LevelRow.icp.fits (start .icpMode false false) ∧
      LevelRow.altEntered.fits (start .altMode false true) ∧
      ∀ m ∈ [Mode.modeReset, .icpMode, .altMode], (LevelRow.probed m).fits (start m false false) := by
  refine ⟨⟨rfl, ⟨by decide, by decide, by decide, by decide⟩, _, rfl⟩, ⟨rfl, rfl⟩,
    ⟨rfl, by decide, rfl, rfl, rfl, rfl⟩, ⟨rfl, by decide, rfl, rfl, rfl, rfl⟩, ⟨rfl, by decide, rfl, rfl, rfl, rfl⟩,
    ⟨rfl, by decide, rfl, rfl, rfl, rfl⟩, ⟨rfl, by decide, rfl, rfl, rfl, rfl⟩, fun m hm => ?_⟩
  simp only [List.mem_cons, List.not_mem_nil, or_false] at hm
  rcases hm with rfl | rfl | rfl <;> exact ⟨rfl, by decide, rfl, rfl, rfl, rfl⟩

end Sys2Proof.Tests
end

section
/-! The command frame and the receive frame (30_encoding.md R75, R77): the level of DIN at each pulse of an event
list, and the bits of a received byte. -/

namespace Sys2Proof.Machine

/-! ### DIN at the pulses -/

@[simp] theorem dinAtPulses_nil (b : Bool) : dinAtPulses b [] = [] := by simp only [dinAtPulses]

@[simp] theorem dinAtPulses_clr_din (b : Bool) (es : List Event) :
    dinAtPulses b (.clr .din :: es) = dinAtPulses false es := by simp only [dinAtPulses]

@[simp] theorem dinAtPulses_smp (b c : Bool) (es : List Event) :
    dinAtPulses b (.smp c :: es) = dinAtPulses b es := by simp [dinAtPulses]

/-- A pulse shows DIN as it is and leaves it so. -/
@[simp] theorem dinAtPulses_pulse (b : Bool) (es : List Event) :
    dinAtPulses b (pulseEvents ++ es) = b :: dinAtPulses b es := by
  simp only [pulseEvents, List.cons_append, List.nil_append, dinAtPulses]

/-- A slot shows the level it drives, whatever DIN was before. -/
@[simp] theorem dinAtPulses_slot (b c : Bool) (es : List Event) :
    dinAtPulses b (slotEvents c ++ es) = c :: dinAtPulses c es := by
  cases c with
  | false => exact dinAtPulses_pulse false es
  | true =>
    have hset : dinAtPulses b (slotEvents true ++ es) = dinAtPulses true (pulseEvents ++ es) := by
      simp [slotEvents, dinEvent, dinAtPulses]
    rw [hset, dinAtPulses_pulse]

/-- The data slots show bits 7 to 0 and leave DIN at bit 0. -/
theorem dinAtPulses_dataSlots (b : Bool) (v : Byte) (es : List Event) :
    dinAtPulses b (dataSlots v ++ es) =
      [v.getLsbD 7, v.getLsbD 6, v.getLsbD 5, v.getLsbD 4, v.getLsbD 3, v.getLsbD 2, v.getLsbD 1, v.getLsbD 0] ++
        dinAtPulses (v.getLsbD 0) es := by
  simp only [dataSlots, List.append_assoc, dinAtPulses_slot, List.cons_append, List.nil_append]

theorem dinAtPulses_commandFrame (b : Bool) (v : Byte) :
    dinAtPulses b (commandFrame v) =
      [v.getLsbD 7, v.getLsbD 6, v.getLsbD 5, v.getLsbD 4, v.getLsbD 3, v.getLsbD 2, v.getLsbD 1, v.getLsbD 0,
        false] := by
  have hlast := dinAtPulses_slot (v.getLsbD 0) false []
  rw [List.append_nil, dinAtPulses_nil] at hlast
  rw [commandFrame, dinAtPulses_dataSlots, hlast]
  rfl

/-- Pulses with a sample after each show DIN unchanged, once for each pulse. -/
theorem dinAtPulses_sampledPulses (b : Bool) (f : Nat → Bool) (is : List Nat) (es : List Event) :
    dinAtPulses b ((is.flatMap fun i => pulseEvents ++ [.smp (f i)]) ++ es) =
      List.replicate is.length b ++ dinAtPulses b es := by
  induction is with
  | nil => rfl
  | cons i is ih =>
    simp only [List.flatMap_cons, List.append_assoc, dinAtPulses_pulse, List.cons_append, List.nil_append,
      dinAtPulses_smp, ih, List.length_cons, List.replicate_succ]

theorem dinAtPulses_receiveFrame (b : Bool) (f : Nat → Bool) :
    dinAtPulses b (receiveFrame f) = List.replicate 9 false := by
  have hlast := dinAtPulses_pulse false []
  rw [List.append_nil, dinAtPulses_nil] at hlast
  rw [receiveFrame, List.cons_append, dinAtPulses_clr_din, dinAtPulses_sampledPulses, hlast]
  rfl

/-! ### The bits of a received byte -/

/-- ORing a sample in at place `i` touches bit `i` only. -/
theorem getLsbD_or_sample (a : Byte) (b : Bool) (i : Nat) {j : Nat} (hj : j < 8) :
    (a ||| (BitVec.setWidth 8 (BitVec.ofBool b) <<< i)).getLsbD j = (a.getLsbD j || (decide (j = i) && b)) := by
  rcases Nat.lt_trichotomy j i with h | rfl | h
  · simp [h, Nat.ne_of_lt h]
  · simp [hj]
  · simp [hj, Nat.ne_of_gt h, Nat.sub_ne_zero_of_lt h]

/-- The bits of the accumulator after samples at any places. -/
theorem getLsbD_accumulate (f : Nat → Bool) (is : List Nat) (a : Byte) {j : Nat} (hj : j < 8) :
    (is.foldl (fun (a : Byte) i => a ||| (BitVec.setWidth 8 (BitVec.ofBool (f i)) <<< i)) a).getLsbD j =
      (a.getLsbD j || (decide (j ∈ is) && f j)) := by
  induction is generalizing a with
  | nil => simp
  | cons i is ih =>
    rw [List.foldl_cons, ih, getLsbD_or_sample a (f i) i hj]
    by_cases hji : j = i
    · subst hji
      cases f j <;> simp
    · simp [hji]

/-- The first sample is bit 0 and the eighth is bit 7. -/
theorem getLsbD_byteOfSamples (f : Nat → Bool) {i : Nat} (hi : i < 8) : (byteOfSamples f).getLsbD i = f i := by
  have hmem : i ∈ [0, 1, 2, 3, 4, 5, 6, 7] := List.mem_range.mpr hi
  rw [← accumulate_eq, getLsbD_accumulate f _ _ hi]
  simp [hmem]

theorem getLsbD_acc_receiveByte (s : State) {i : Nat} (hi : i < 8) : (receiveByte s).acc.getLsbD i = s.drawAt i := by
  have hacc : (receiveByte s).acc = s.incoming 0 := by rw [receiveByte_eq]
  rw [hacc, State.incoming, getLsbD_byteOfSamples _ hi, Nat.mul_zero, Nat.zero_add]

/-! ### What a frame adds to the trace -/

theorem trace_sendByteMSBFirst (v : Byte) (s : State) : (sendByteMSBFirst v s).trace = s.trace ++ commandFrame v :=
  trace_of_events (by rw [sendByteMSBFirst_eq])

theorem trace_receiveByte (s : State) : (receiveByte s).trace = s.trace ++ receiveFrame fun i => s.drawAt i :=
  trace_of_events (by rw [receiveByte_eq])

/-- Settles O27: the frame is `commandFrame v`, whose pulses and DIN levels are known slot by slot. -/
theorem commandFrameSlots : Obligations.CommandFrameSlots := fun v s =>
  ⟨commandFrame v, trace_sendByteMSBFirst v s, pulseCount_commandFrame v, dinAtPulses_commandFrame s.din v⟩

/-- Settles O29: the frame is `receiveFrame` of the next eight draws, and the accumulator has one bit of each. -/
theorem receiveFrameSlots : Obligations.ReceiveFrameSlots := fun s =>
  ⟨receiveFrame fun i => s.drawAt i, trace_receiveByte s, pulseCount_receiveFrame _, dinAtPulses_receiveFrame s.din _,
    rfl, fun _ hi => getLsbD_acc_receiveByte s hi⟩

end Sys2Proof.Machine
end

section
/-! SWITCHMODE to the current mode (43_mode_switch.md R139): it does nothing, and every SWITCHMODE that is not
refused ends at its target, so a second one does nothing. -/

namespace Sys2Proof.Machine

theorem legalTarget_iff {t : Byte} : legalTarget t = true ↔ t = MODE_ICP ∨ t = MODE_ALT := by
  simp [legalTarget]

/-- The number of the mode Uninitialized is no legal target (R137, D4). -/
theorem ne_uninitialized_of_code_eq_legalTarget {m : Mode} (h : legalTarget m.code = true) : m ≠ .uninitialized := by
  rintro rfl
  exact absurd h (by decide)

/-- A legal target that is the current mode: SWITCHMODE leaves the whole state as it is (R139). -/
theorem runSwitch_of_code_eq {t : Byte} {s : State} (ht : legalTarget t = true) (hc : s.mode.code = t) :
    runSwitch t s = s := by
  have hs : s.mode ≠ .uninitialized := ne_uninitialized_of_code_eq_legalTarget (hc ▸ ht)
  rw [runSwitch_of_legal ht hs, switchTo_of_eq hc]

/-- SWITCHMODE that is not refused ends at its target (R135). -/
theorem mode_code_runSwitch {t : Byte} {s : State} (ht : legalTarget t = true) (hs : s.mode ≠ .uninitialized) :
    (runSwitch t s).mode.code = t := by
  rw [runSwitch_of_legal ht hs]
  by_cases hc : s.mode.code = t
  · rw [switchTo_of_eq hc, hc]
  · rw [switchTo_of_ne hc]
    rcases legalTarget_iff.mp ht with rfl | rfl
    · rw [enterMode_icp_eq]
      rfl
    · rw [enterMode_alt_eq]
      rfl

/-- SWITCHMODE twice is SWITCHMODE once, for a legal target from an initialised mode. -/
theorem runSwitch_runSwitch {t : Byte} {s : State} (ht : legalTarget t = true) (hs : s.mode ≠ .uninitialized) :
    runSwitch t (runSwitch t s) = runSwitch t s :=
  runSwitch_of_code_eq ht (mode_code_runSwitch ht hs)

/-- Settles O38: SWITCHMODE changes nothing at its target, and ends there when it is not refused. -/
theorem switchmodeIsIdempotent : Obligations.SwitchmodeIsIdempotent := by
  refine ⟨fun s hm => ?_, fun s hm => ?_, fun s t tgt hs htgt hexec => ?_⟩
  · rw [exec_switchmode, runSwitch_of_code_eq (t := 0x96) rfl (congrArg Mode.code hm)]
  · rw [exec_switchmode, runSwitch_of_code_eq (t := 0xA5) rfl (congrArg Mode.code hm)]
  · rw [exec_switchmode] at hexec
    obtain rfl := Host.Outcome.next.inj hexec
    rw [exec_switchmode, runSwitch_runSwitch (legalTarget_iff.mpr htgt) hs]

end Sys2Proof.Machine
end

section
/-! The data phase of READFLASH (45_flash_read.md R165): the sizes of a run of receive frames, and the read buffer
after each of them. -/

namespace Sys2Proof.Machine

/-! ### Sizes of a run of receive frames -/

theorem pulsesEnd_receiveFrames (s : State) (n : Nat) : PulsesEnd (receiveFrames s n) := by
  induction n with
  | zero => exact pulsesEnd_nil
  | succ n ih =>
    rw [receiveFrames_succ]
    exact ih.append (pulsesEnd_receiveFrame _)

theorem pulseCount_receiveFrames (s : State) (n : Nat) : pulseCount (receiveFrames s n) = 9 * n := by
  induction n with
  | zero => simp [receiveFrames, pulseCount]
  | succ n ih => rw [receiveFrames_succ, pulsesEnd_receiveFrames, ih, pulseCount_receiveFrame, Nat.mul_succ]

theorem length_samplesOf_receiveFrames (s : State) (n : Nat) : (samplesOf (receiveFrames s n)).length = 8 * n := by
  induction n with
  | zero => simp [receiveFrames, samplesOf]
  | succ n ih =>
    rw [receiveFrames_succ, samplesOf_append, samplesOf_receiveFrame, List.length_append, ih, List.length_map,
      List.length_range, Nat.mul_succ]

theorem length_receiveFrames (s : State) (n : Nat) : (receiveFrames s n).length = 45 * n := by
  induction n with
  | zero => rfl
  | succ n ih => rw [receiveFrames_succ, List.length_append, ih, length_receiveFrame, Nat.mul_succ]

/-! ### READFLASH from an initialised mode -/

/-- The read opcode is the last byte sent (phase P6). -/
theorem readflashSends_eq_append_opcode (c : ChipConfig) (addr : Addr24) (cb : Bool) :
    ∃ es, readflashSends c addr cb = es ++ commandFrame (if cb then 0x4A else 0x44) :=
  ⟨_, List.flatten_concat (L := [_, _, _])⟩

theorem exec_readflash_of_ne (addr : Addr24) (cb : Bool) {s : State} (h : s.mode ≠ .uninitialized) :
    exec (.readflash addr cb) s = .next (runReadflash addr cb s) := by
  rw [exec_readflash, whenInitialized_of_ne h]

theorem trace_runReadflash (addr : Addr24) (cb : Bool) {s : State} (h : s.mode ≠ .uninitialized) :
    (runReadflash addr cb s).trace =
      s.trace ++ (resetTrace s.mode ++ enterIcpTrace ++ readflashSends s.cfg addr cb ++ receiveFrames s 16) :=
  trace_of_events (by rw [runReadflash_eq addr cb h])

theorem rbuf_runReadflash (addr : Addr24) (cb : Bool) {s : State} (h : s.mode ≠ .uninitialized) :
    (runReadflash addr cb s).rbuf = bufferAfter s 16 := by rw [runReadflash_eq addr cb h]

theorem rbuf_receiveInto_range (s : State) (n : Nat) :
    ((List.range n).foldl receiveInto s).rbuf = bufferAfter s n := by
  cases n with
  | zero => rfl
  | succ n => rw [receiveInto_range_eq]

/-- The buffer after sixteen stores is the sixteen values in call order. -/
theorem map_read_bufferAfter {s : State} (h : s.rbuf.wf = true) :
    (List.range 16).map (bufferAfter s 16).read = (List.range 16).map s.incoming :=
  List.map_congr_left fun _ hk => bufferAfter_read_below h (Nat.le_refl 16) (List.mem_range.mp hk)

/-- Settles O52: READFLASH ends in the read opcode and sixteen receive frames, whose sizes are those of one frame
times sixteen; each store leaves the addresses above it as they were. -/
theorem dataPhaseIsSixteenReceiveFrames : Obligations.DataPhaseIsSixteenReceiveFrames := by
  refine ⟨fun s t addr cb hs hwf hexec => ?_, fun s k hk hwf => ?_⟩
  · rw [exec_readflash_of_ne addr cb hs] at hexec
    obtain rfl := Host.Outcome.next.inj hexec
    obtain ⟨es, hes⟩ := readflashSends_eq_append_opcode s.cfg addr cb
    refine ⟨resetTrace s.mode ++ enterIcpTrace ++ es, receiveFrames s 16, ?_, rfl, pulseCount_receiveFrames s 16,
      length_samplesOf_receiveFrames s 16, length_receiveFrames s 16, ?_⟩
    · rw [trace_runReadflash addr cb hs, hes]
      simp only [List.append_assoc]
    · rw [rbuf_runReadflash addr cb hs, map_read_bufferAfter hwf]
  · rw [rbuf_receiveInto_range]
    exact ⟨bufferAfter_read_below hwf hk (Nat.lt_succ_self k), fun j hj => bufferAfter_read_above s hj⟩

end Sys2Proof.Machine
end

section
/-! Decoding and encoding (30_encoding.md): the decoder by the value of `OP`, the words an instruction is read from,
and the table of wire values. -/

namespace Sys2Proof

open Machine

/-! ### Command words by `OP` (R72, R74) -/

theorem decode_handshake {w : Word} (h : fieldOp w = 1) : decode (.command w) = .ok .handshake := by
  simp [decode, decodeCommand, h]

theorem decode_reset {w : Word} (h : fieldOp w = 2) : decode (.command w) = .ok .reset := by
  simp [decode, decodeCommand, h]

theorem decode_switchmode {w : Word} (h : fieldOp w = 3) :
    decode (.command w) = .ok (.switchmode (fieldTgt w)) := by
  simp [decode, decodeCommand, h]

theorem decode_check {w : Word} (h : fieldOp w = 4) : decode (.command w) = .ok .check := by
  simp [decode, decodeCommand, h]

theorem decode_ping {w : Word} (h : fieldOp w = 5) : decode (.command w) = .ok .ping := by
  simp [decode, decodeCommand, h]

theorem decode_readflash {w : Word} (h : fieldOp w = 6) :
    decode (.command w) = .ok (.readflash (fieldAddr w) (fieldCb w)) := by
  simp [decode, decodeCommand, h]

theorem decode_reservedOp {w : Word} (h : (fieldOp w).toNat = 0 ∨ 7 ≤ (fieldOp w).toNat) :
    decode (.command w) = .error (.reservedOp (fieldOp w)) := by
  have hne : ∀ k : BitVec 4, 1 ≤ k.toNat → k.toNat ≤ 6 → fieldOp w ≠ k := by
    rintro k h1 h6 rfl
    omega
  simp only [decode, decodeCommand, if_neg (hne 1 (by decide) (by decide)), if_neg (hne 2 (by decide) (by decide)),
    if_neg (hne 3 (by decide) (by decide)), if_neg (hne 4 (by decide) (by decide)),
    if_neg (hne 5 (by decide) (by decide)), if_neg (hne 6 (by decide) (by decide))]

/-- What a command word that decodes can be: its `OP` and its operands fix the instruction. -/
theorem decode_command_cases {w : Word} {i : Instr} (h : decode (.command w) = .ok i) :
    (fieldOp w = 1 ∧ i = .handshake) ∨ (fieldOp w = 2 ∧ i = .reset) ∨
    (fieldOp w = 3 ∧ i = .switchmode (fieldTgt w)) ∨ (fieldOp w = 4 ∧ i = .check) ∨
    (fieldOp w = 5 ∧ i = .ping) ∨ (fieldOp w = 6 ∧ i = .readflash (fieldAddr w) (fieldCb w)) := by
  rcases ok_of_row h with ⟨hop, rfl⟩ | h
  · exact .inl ⟨hop, rfl⟩
  refine .inr ?_
  rcases ok_of_row h with ⟨hop, rfl⟩ | h
  · exact .inl ⟨hop, rfl⟩
  refine .inr ?_
  rcases ok_of_row h with ⟨hop, rfl⟩ | h
  · exact .inl ⟨hop, rfl⟩
  refine .inr ?_
  rcases ok_of_row h with ⟨hop, rfl⟩ | h
  · exact .inl ⟨hop, rfl⟩
  refine .inr ?_
  rcases ok_of_row h with ⟨hop, rfl⟩ | h
  · exact .inl ⟨hop, rfl⟩
  refine .inr ?_
  rcases ok_of_row h with ⟨hop, rfl⟩ | h
  · exact ⟨hop, rfl⟩
  exact nomatch h

/-- Settles O1: a packed word gives its fields back, so it decodes by the `OP` it was packed with. -/
theorem decodeOfEncodeIsTheInstruction : Obligations.DecodeOfEncodeIsTheInstruction := by
  intro i
  cases i with
  | handshake => exact decode_handshake (fieldOp_packCommand 1 _ _)
  | reset => exact decode_reset (fieldOp_packCommand 2 _ _)
  | switchmode tgt =>
    have htgt : (0#16 ++ tgt).extractLsb' 0 8 = tgt := by
      apply BitVec.eq_of_getLsbD_eq
      intro k hk
      rw [BitVec.getLsbD_extractLsb', BitVec.getLsbD_append]
      simp [hk]
    rw [encode, decode_switchmode (fieldOp_packCommand 3 _ _), fieldTgt_packCommand, htgt]
  | check => exact decode_check (fieldOp_packCommand 4 _ _)
  | ping => exact decode_ping (fieldOp_packCommand 5 _ _)
  | readflash addr cb =>
    rw [encode, decode_readflash (fieldOp_packCommand 6 _ _), fieldAddr_packCommand, fieldCb_packCommand]
  | _ => rfl

/-! ### The bits an operation uses (R72) -/

/-- A word under the mask of an operation that uses `OP` alone. -/
theorem word_and_opMask (w : Word) : w &&& 0xF0000000 = packCommand (fieldOp w) false 0 := by
  apply BitVec.eq_of_getLsbD_eq
  intro k hk
  simp only [packCommand, fieldOp, BitVec.getLsbD_and, BitVec.getLsbD_append, BitVec.getLsbD_extractLsb']
  interval_cases k <;> simp

/-- A word under the mask of SWITCHMODE. -/
theorem word_and_tgtMask (w : Word) : w &&& 0xF00000FF = packCommand (fieldOp w) false (0#16 ++ fieldTgt w) := by
  apply BitVec.eq_of_getLsbD_eq
  intro k hk
  simp only [packCommand, fieldOp, fieldTgt, BitVec.getLsbD_and, BitVec.getLsbD_append, BitVec.getLsbD_extractLsb']
  interval_cases k <;> simp

/-- A word under the mask of READFLASH. -/
theorem word_and_addrMask (w : Word) :
    w &&& 0xF1FFFFFF = packCommand (fieldOp w) (fieldCb w) (fieldAddr w) := by
  apply BitVec.eq_of_getLsbD_eq
  intro k hk
  simp only [packCommand, fieldOp, fieldCb, fieldAddr, BitVec.getLsbD_and, BitVec.getLsbD_append,
    BitVec.getLsbD_extractLsb']
  interval_cases k <;> simp

/-- Settles O2: by the instruction the word decodes to, the word under its mask is the word packed from its
fields. -/
theorem encodeOfDecodedCommandKeepsItsUsedBits : Obligations.EncodeOfDecodedCommandKeepsItsUsedBits := by
  intro w i h
  rcases decode_command_cases h with ⟨hop, rfl⟩ | ⟨hop, rfl⟩ | ⟨hop, rfl⟩ | ⟨hop, rfl⟩ | ⟨hop, rfl⟩ | ⟨hop, rfl⟩
  · rw [usedBits, word_and_opMask, hop]; rfl
  · rw [usedBits, word_and_opMask, hop]; rfl
  · rw [usedBits, word_and_tgtMask, hop]; rfl
  · rw [usedBits, word_and_opMask, hop]; rfl
  · rw [usedBits, word_and_opMask, hop]; rfl
  · rw [usedBits, word_and_addrMask, hop]; rfl

/-- Settles O3: each clause is the decoder at that value of `OP`. -/
theorem commandWordsDecodeExactlyForOpOneToSix : Obligations.CommandWordsDecodeExactlyForOpOneToSix := fun _ =>
  ⟨decode_handshake, decode_reset, decode_switchmode, decode_check, decode_ping, decode_readflash, decode_reservedOp⟩

/-! ### Wire values (R80 to R91) -/

/-- The wire values with the instruction of each, as the decoder tests them. -/
def wireTable : List (Byte × Instr) :=
  [(ICP_ADDRESS_7B0, .icpAddress7b0), (ICP_ADDRESS_15B8, .icpAddress15b8), (ICP_ADDRESS_23B16, .icpAddress23b16),
    (ICP_READ, .icpRead), (ICP_WRITE, .icpWrite), (ICP_READ_CUSTOM_BLOCK, .icpReadCustomBlock), (MODE_ICP, .modeIcp),
    (MODE_ALT, .modeAlt), (OP_PROBE, .opProbe), (OP_PING, .opPing), (OP_PRE, .opPre)]

/-- A byte that is no wire value is rejected by name. -/
theorem decode_wire_of_notMem {b : Byte} (h : b ∉ wireTable.map Prod.fst) :
    decode (.wire b) = .error (.notAWireValue b) := by
  simp only [wireTable, List.map_cons, List.map_nil, List.mem_cons, List.not_mem_nil, or_false, not_or] at h
  obtain ⟨h1, h2, h3, h4, h5, h6, h7, h8, h9, h10, h11⟩ := h
  simp only [decode, decodeWire, if_neg h1, if_neg h2, if_neg h3, if_neg h4, if_neg h5, if_neg h6, if_neg h7, if_neg h8,
    if_neg h9, if_neg h10, if_neg h11]

/-- Every row of the table decodes to its instruction. -/
theorem decode_wire_of_mem : ∀ p ∈ wireTable, decode (.wire p.1) = .ok p.2 := by
  intro p hp
  simp only [wireTable, List.mem_cons, List.not_mem_nil, or_false] at hp
  rcases hp with rfl | rfl | rfl | rfl | rfl | rfl | rfl | rfl | rfl | rfl | rfl <;> rfl

theorem decode_wire_iff (b : Byte) (i : Instr) : decode (.wire b) = .ok i ↔ (b, i) ∈ wireTable := by
  refine ⟨fun h => ?_, fun h => decode_wire_of_mem (b, i) h⟩
  by_cases hb : b ∈ wireTable.map Prod.fst
  · obtain ⟨⟨_, j⟩, hj, rfl⟩ := List.mem_map.mp hb
    rw [← Except.ok.inj ((decode_wire_of_mem _ hj).symm.trans h)]
    exact hj
  · rw [decode_wire_of_notMem hb] at h
    exact nomatch h

/-- Settles O4: the table is `wireTable` with the bytes written out. -/
theorem wireValuesAreExactlyElevenBytes : Obligations.WireValuesAreExactlyElevenBytes :=
  ⟨decode_wire_iff, fun _ => decode_wire_of_notMem⟩

/-- A command word decodes to a host command (R70). -/
theorem isCommand_of_decode_command {w : Word} {i : Instr} (h : decode (.command w) = .ok i) : i.isCommand = true := by
  rcases decode_command_cases h with ⟨-, rfl⟩ | ⟨-, rfl⟩ | ⟨-, rfl⟩ | ⟨-, rfl⟩ | ⟨-, rfl⟩ | ⟨-, rfl⟩ <;> rfl

/-- Settles O5: each word has its `OP` and operands where the decoder reads them. -/
theorem wordsFromTheSpecDecode : Obligations.WordsFromTheSpecDecode :=
  ⟨decode_handshake rfl, decode_reset rfl, decode_switchmode rfl, decode_check rfl, decode_ping rfl,
    decode_readflash rfl, rfl, rfl⟩

end Sys2Proof
end

section
/-! The sizes of the event lists of frames and operations (00_scope.md R12): events, pulses, minimum time and samples
together, added up along the lists they are put together from. -/

namespace Sys2Proof.Machine

/-- The four sizes of an event list that cuts no pulse at its end. -/
structure Sized (es : List Event) (events pulses time samples : Nat) : Prop where
  events_eq : es.length = events
  pulsesEnd : PulsesEnd es
  pulses_eq : pulseCount es = pulses
  time_eq : waitSum es = time
  samples_eq : (samplesOf es).length = samples

theorem Sized.noSamples {es : List Event} {n p w : Nat} (h : Sized es n p w 0) : samplesOf es = [] :=
  List.length_eq_zero_iff.mp h.samples_eq

theorem Sized.congr {es : List Event} {n p w k n' p' w' : Nat} (h : Sized es n p w k) (hn : n = n') (hp : p = p')
    (hw : w = w') : Sized es n' p' w' k := by
  subst hn hp hw
  exact h

/-! ### Putting lists together -/

theorem sized_nil : Sized [] 0 0 0 0 := ⟨rfl, pulsesEnd_nil, by simp [pulseCount], rfl, rfl⟩

theorem Sized.append {a b : List Event} {n p w k n' p' w' k' : Nat} (ha : Sized a n p w k) (hb : Sized b n' p' w' k') :
    Sized (a ++ b) (n + n') (p + p') (w + w') (k + k') where
  events_eq := by rw [List.length_append, ha.events_eq, hb.events_eq]
  pulsesEnd := ha.pulsesEnd.append hb.pulsesEnd
  pulses_eq := by rw [ha.pulsesEnd, ha.pulses_eq, hb.pulses_eq]
  time_eq := by rw [waitSum_append, ha.time_eq, hb.time_eq]
  samples_eq := by rw [samplesOf_append, List.length_append, ha.samples_eq, hb.samples_eq]

/-- A list without a sample, repeated. -/
theorem Sized.repeated {es : List Event} {n p w : Nat} (h : Sized es n p w 0) (m : Nat) :
    Sized (repeated m es) (m * n) (m * p) (m * w) 0 where
  events_eq := by rw [length_repeated, h.events_eq]
  pulsesEnd := h.pulsesEnd.repeated m
  pulses_eq := by rw [pulseCount_repeated h.pulsesEnd, h.pulses_eq]
  time_eq := by rw [waitSum_repeated, h.time_eq]
  samples_eq := by rw [samplesOf_repeated m h.noSamples]; rfl

/-! ### Shapes and frames -/

/-- A drive of a line that does not raise CLK, or a configuration. -/
theorem sized_drive {e : Event} (h : e ≠ .set .clk) (hw : waitSum [e] = 0) (hs : samplesOf [e] = []) :
    Sized [e] 1 0 0 0 :=
  ⟨rfl, pulsesEnd_nil.cons h, by rw [pulseCount_cons h]; simp [pulseCount], hw, by rw [hs]; rfl⟩

theorem sized_wait (n : Nat) : Sized [.wait n] 1 0 n 0 :=
  ⟨rfl, pulsesEnd_nil.cons (by simp), by simp [pulseCount], rfl, rfl⟩

/-- CLK raised and held longer than in a pulse. -/
theorem sized_raiseClk {n : Nat} (hn : n ≠ 1) : Sized [.set .clk, .wait n] 2 0 n 0 :=
  ⟨rfl, fun c => by simp [pulseCount, hn], by simp [pulseCount], rfl, rfl⟩

/-- CLK raised, and another line driven at once. -/
theorem sized_setClk_set {l : Line} (hl : l ≠ .clk) : Sized [.set .clk, .set l] 2 0 0 0 :=
  ⟨rfl, fun c => by cases l <;> simp_all [pulseCount], by simp [pulseCount], rfl, rfl⟩

theorem sized_lowPulse (l : Line) (a : Nat) {b : Nat} (hb : b ≠ 1) : Sized (lowPulseEvents l a b) 4 0 (a + b) 0 :=
  ⟨rfl, pulsesEnd_lowPulse l a hb, pulseCount_lowPulse l a b, rfl, rfl⟩

theorem sized_mselPulse : Sized (highPulseEvents .msel 5 5) 4 0 10 0 :=
  (sized_drive (e := .set .msel) (by decide) rfl rfl).append
    ((sized_wait 5).append ((sized_drive (e := .clr .msel) (by decide) rfl rfl).append (sized_wait 5)))

theorem sized_pulse : Sized pulseEvents 4 1 2 0 := ⟨rfl, pulsesEnd_pulse, rfl, rfl, rfl⟩

theorem sized_commandFrame (v : Byte) : Sized (commandFrame v) 45 9 18 0 :=
  ⟨length_commandFrame v, pulsesEnd_commandFrame v, pulseCount_commandFrame v, waitSum_commandFrame v,
    by rw [samplesOf_commandFrame]; rfl⟩

theorem sized_commandFrames (vs : List Byte) :
    Sized (commandFrames vs) (vs.length * 45) (vs.length * 9) (vs.length * 18) 0 := by
  induction vs with
  | nil => exact sized_nil
  | cons v vs ih =>
    have h := (sized_commandFrame v).append ih
    rwa [Nat.add_comm 45, Nat.add_comm 9, Nat.add_comm 18, ← Nat.succ_mul, ← Nat.succ_mul, ← Nat.succ_mul] at h

theorem sized_modeFrame (v : Byte) : Sized (modeFrame v) 48 10 20 0 :=
  ⟨length_modeFrame v, pulsesEnd_modeFrame v, pulseCount_modeFrame v, waitSum_modeFrame v,
    by rw [samplesOf_modeFrame]; rfl⟩

theorem waitSum_receiveFrames (s : State) (n : Nat) : waitSum (receiveFrames s n) = 18 * n := by
  induction n with
  | zero => rfl
  | succ n ih => rw [receiveFrames_succ, waitSum_append, ih, waitSum_receiveFrame, Nat.mul_succ]

theorem sized_receiveFrames (s : State) (n : Nat) : Sized (receiveFrames s n) (45 * n) (9 * n) (18 * n) (8 * n) :=
  ⟨length_receiveFrames s n, pulsesEnd_receiveFrames s n, pulseCount_receiveFrames s n, waitSum_receiveFrames s n,
    length_samplesOf_receiveFrames s n⟩

/-! ### Operations -/

theorem sized_wakeEvents : Sized wakeEvents 5 0 500 0 :=
  (sized_drive (e := .cfg) (by decide) rfl rfl).append ((sized_setClk_set (l := .din) (by decide)).append
    ((sized_drive (e := .set .msel) (by decide) rfl rfl).append (sized_wait 500)))

theorem sized_preModeEvents : Sized preModeEvents 4 0 10 0 :=
  (sized_wait 8).append ((sized_drive (e := .clr .msel) (by decide) rfl rfl).append
    ((sized_drive (e := .clr .clk) (by decide) rfl rfl).append (sized_wait 2)))

/-- The stage table of HANDSHAKE (42_entry_handshake.md R122). -/
theorem sized_handshakeTrace : Sized handshakeTrace 206307 10 206833 0 :=
  sized_wakeEvents.append ((sized_lowPulse .clk 1 (b := 50) (by decide)).append
    (((sized_lowPulse .msel 2 (b := 2) (by decide)).repeated 165).append
    (((sized_lowPulse .din 2 (b := 2) (by decide)).repeated 105).append
    (((sized_lowPulse .clk 2 (b := 2) (by decide)).repeated 90).append
    (((sized_lowPulse .msel 2 (b := 2) (by decide)).repeated 25600).append
    (sized_preModeEvents.append ((sized_modeFrame 0x96).append ((sized_raiseClk (n := 2) (by decide)).append
    (((sized_lowPulse .clk 2 (b := 2) (by decide)).repeated 25600).append
    (sized_mselPulse.append sized_nil))))))))))

theorem sized_resetFromAlt : Sized (resetTrace .altMode) 142 0 140 0 :=
  ((sized_drive (e := .set .msel) (by decide) rfl rfl).append
    ((sized_lowPulse .clk 2 (b := 2) (by decide)).repeated 35)).append
      (sized_drive (e := .clr .msel) (by decide) rfl rfl)

theorem sized_resetFromIcp : Sized (resetTrace .icpMode) 5 0 4 0 :=
  (sized_setClk_set (l := .msel) (by decide)).append ((sized_wait 2).append
    ((sized_drive (e := .clr .msel) (by decide) rfl rfl).append (sized_wait 2)))

/-- RESET by the mode it starts from (43_mode_switch.md R131 to R133). -/
theorem sized_resetTrace (m : Mode) :
    Sized (resetTrace m) (if m = .icpMode then 5 else if m = .altMode then 142 else 0) 0
      (if m = .icpMode then 4 else if m = .altMode then 140 else 0) 0 := by
  cases m with
  | uninitialized => exact sized_nil
  | modeReset => exact sized_nil
  | icpMode => exact sized_resetFromIcp
  | altMode => exact sized_resetFromAlt

theorem sized_pingTrace : Sized pingTrace 90 18 36 0 := (sized_commandFrame 0x49).append (sized_commandFrame 0xFF)

theorem sized_lowerClkEvents : Sized lowerClkEvents 2 0 2 0 :=
  (sized_drive (e := .clr .clk) (by decide) rfl rfl).append (sized_wait 2)

/-- The entry into IcpMode (43_mode_switch.md R135, R136). -/
theorem sized_enterIcpTrace : Sized enterIcpTrace 143 28 860 0 :=
  sized_lowerClkEvents.append ((sized_modeFrame 0x96).append
    (((sized_wait 800).append (sized_raiseClk (n := 2) (by decide))).append (sized_pingTrace.append sized_nil)))

/-- The entry into AltMode (R135, R138). -/
theorem sized_enterAltTrace : Sized enterAltTrace 84 18 38 0 :=
  sized_lowerClkEvents.append ((sized_modeFrame 0xA5).append
    ((sized_drive (e := .set .msel) (by decide) rfl rfl).append ((sized_pulse.repeated 6).append
    ((sized_drive (e := .clr .msel) (by decide) rfl rfl).append ((sized_pulse.repeated 2).append sized_nil)))))

/-- Command frames sent only if configured. -/
theorem sized_commandFrames_if (c : Bool) (vs : List Byte) :
    Sized (if c then commandFrames vs else []) (if c then vs.length * 45 else 0) (if c then vs.length * 9 else 0)
      (if c then vs.length * 18 else 0) 0 := by
  cases c
  · exact sized_nil
  · exact sized_commandFrames vs

/-- What READFLASH sends after the ping (45_flash_read.md R160). -/
theorem sized_readflashSends (c : ChipConfig) (addr : Addr24) (cb : Bool) :
    Sized (readflashSends c addr cb)
      (225 + (if c.extraPreamble then 135 else 0) + (if c.addrHighField then 90 else 0))
      (45 + (if c.extraPreamble then 27 else 0) + (if c.addrHighField then 18 else 0))
      (90 + (if c.extraPreamble then 54 else 0) + (if c.addrHighField then 36 else 0)) 0 := by
  have h : Sized (readflashSends c addr cb) _ _ _ 0 :=
    (sized_commandFrames_if c.extraPreamble [0x46, 0xFE, 0xFF]).append
      ((sized_commandFrames [0x40, addr.extractLsb' 0 8, 0x41, addr.extractLsb' 8 8]).append
        ((sized_commandFrames_if c.addrHighField [0x4C, addr.extractLsb' 16 8]).append
          ((sized_commandFrame (if cb then 0x4A else 0x44)).append sized_nil)))
  simp only [List.length_cons, List.length_nil] at h
  exact h.congr (by ring) (by ring) (by ring)

end Sys2Proof.Machine
end

section
/-! What an instruction can do, whichever it is: it is refused, it drives the lines without sampling, or it is CHECK
or READFLASH; what every instruction keeps, and the mode it leaves (10_state.md). -/

namespace Sys2Proof.Machine

/-! ### The ways an instruction can end -/

/-- The step from `s` to `t` drives the lines and samples nothing: it writes the mode, the lines and the counters of
the transmitter and of the trains, and nothing else. -/
def DrivesLines (s t : State) : Prop :=
  ∃ es, samplesOf es = [] ∧
    t = { s with
      mode := t.mode, clk := t.clk, din := t.din, msel := t.msel, oe := t.oe, bitn := t.bitn, loop := t.loop
      freeLatches := t.freeLatches, events := es.reverse ++ s.events }

theorem DrivesLines.refl (s : State) : DrivesLines s s := ⟨[], rfl, rfl⟩

theorem DrivesLines.trans {s t u : State} (h : DrivesLines s t) (h' : DrivesLines t u) : DrivesLines s u := by
  obtain ⟨es, hs, ht⟩ := h
  obtain ⟨es', hs', hu⟩ := h'
  refine ⟨es ++ es', by rw [samplesOf_append, hs, hs']; rfl, ?_⟩
  rw [hu, ht]
  simp

theorem drivesLines_runHandshake (s : State) : DrivesLines s (runHandshake s) := by
  rw [runHandshake_eq]
  exact ⟨handshakeTrace, sized_handshakeTrace.noSamples, rfl⟩

theorem drivesLines_runReset {s : State} (h : s.mode ≠ .uninitialized) : DrivesLines s (runReset s) := by
  rw [runReset_eq]
  cases hm : s.mode with
  | uninitialized => exact absurd hm h
  | modeReset => exact .refl s
  | icpMode => exact ⟨resetTrace .icpMode, sized_resetFromIcp.noSamples, rfl⟩
  | altMode => exact ⟨resetTrace .altMode, sized_resetFromAlt.noSamples, rfl⟩

theorem drivesLines_enterIcp (s : State) : DrivesLines s (enterMode MODE_ICP s) := by
  rw [enterMode_icp_eq]
  exact ⟨enterIcpTrace, sized_enterIcpTrace.noSamples, rfl⟩

theorem drivesLines_enterAlt (s : State) : DrivesLines s (enterMode MODE_ALT s) := by
  rw [enterMode_alt_eq]
  exact ⟨enterAltTrace, sized_enterAltTrace.noSamples, rfl⟩

theorem drivesLines_runPing (s : State) : DrivesLines s (runPing s) := by
  rw [runPing_eq]
  exact ⟨pingTrace, sized_pingTrace.noSamples, rfl⟩

/-- SWITCHMODE is refused, or it drives the lines. -/
theorem runSwitch_refuses_or_drives (tgt : Byte) (s : State) :
    (∃ r, runSwitch tgt s = refuse r s) ∨ DrivesLines s (runSwitch tgt s) := by
  rcases runSwitch_cases tgt s with ⟨-, h⟩ | ⟨-, -, h⟩ | ⟨-, -, -, h⟩ | ⟨-, hm, -, h⟩ | ⟨-, hm, -, h⟩
  · exact .inl ⟨_, h⟩
  · exact .inl ⟨_, h⟩
  · rw [h]
    exact .inr (.refl s)
  · exact .inr (h ▸ (drivesLines_runReset hm).trans (drivesLines_enterIcp _))
  · exact .inr (h ▸ (drivesLines_runReset hm).trans (drivesLines_enterAlt _))

theorem drivesLines_of_wire {i : Instr} {s t : State} (hi : i.isCommand = false) (h : exec i s = .next t) :
    DrivesLines s t := by
  obtain ⟨d, es, hes, hexec⟩ := exec_wire hi
  obtain rfl := Host.Outcome.next.inj ((hexec s).symm.trans h)
  exact ⟨es, hes, rfl⟩

/-- What an instruction can do. -/
theorem exec_cases {i : Instr} {s t : State} (h : exec i s = .next t) :
    (∃ r, t = refuse r s) ∨ (i ≠ .check ∧ (∀ a c, i ≠ .readflash a c) ∧ DrivesLines s t) ∨
      (i = .check ∧ s.mode ≠ .uninitialized ∧ t = runCheck s) ∨
      (∃ a c, i = .readflash a c ∧ s.mode ≠ .uninitialized ∧ t = runReadflash a c s) := by
  cases i with
  | handshake =>
    obtain rfl := Host.Outcome.next.inj h
    exact .inr (.inl ⟨nofun, nofun, drivesLines_runHandshake s⟩)
  | reset =>
    obtain rfl := Host.Outcome.next.inj h
    by_cases hm : s.mode = .uninitialized
    · exact .inl ⟨.notInitialized, by rw [runReset, hm]⟩
    · exact .inr (.inl ⟨nofun, nofun, drivesLines_runReset hm⟩)
  | switchmode tgt =>
    obtain rfl := Host.Outcome.next.inj h
    rcases runSwitch_refuses_or_drives tgt s with hr | hd
    · exact .inl hr
    · exact .inr (.inl ⟨nofun, nofun, hd⟩)
  | check =>
    obtain rfl := Host.Outcome.next.inj h
    rcases whenInitialized_cases runCheck s with ⟨-, hr⟩ | ⟨hm, hc⟩
    · exact .inl ⟨_, hr⟩
    · exact .inr (.inr (.inl ⟨rfl, hm, hc⟩))
  | ping =>
    obtain rfl := Host.Outcome.next.inj h
    rcases whenInitialized_cases runPing s with ⟨-, hr⟩ | ⟨-, hp⟩
    · exact .inl ⟨_, hr⟩
    · exact .inr (.inl ⟨nofun, nofun, hp ▸ drivesLines_runPing s⟩)
  | readflash a c =>
    obtain rfl := Host.Outcome.next.inj h
    rcases whenInitialized_cases (runReadflash a c) s with ⟨-, hr⟩ | ⟨hm, hf⟩
    · exact .inl ⟨_, hr⟩
    · exact .inr (.inr (.inr ⟨a, c, rfl, hm, hf⟩))
  | _ => exact .inr (.inl ⟨nofun, nofun, drivesLines_of_wire rfl h⟩)

/-! ### What every instruction keeps -/

/-- No instruction writes the operand latches, `BUSY`, the sequencer, the configuration or anything of the port. -/
theorem exec_frame {i : Instr} {s t : State} (h : exec i s = .next t) :
    t = { t with
      addr := s.addr, cb := s.cb, tgt := s.tgt, busy := s.busy, seq := s.seq, cfg := s.cfg, inputs := s.inputs
      readData := s.readData, freeReads := s.freeReads } := by
  rcases exec_cases h with ⟨r, rfl⟩ | ⟨-, -, es, -, ht⟩ | ⟨-, -, rfl⟩ | ⟨a, c, -, hm, rfl⟩
  · rfl
  · rw [ht]
  · rw [runCheck_eq]
  · rw [runReadflash_eq a c hm]

/-- An event once in the trace stays. -/
theorem exec_trace_grows {i : Instr} {s t : State} (h : exec i s = .next t) : ∃ es, t.trace = s.trace ++ es := by
  rcases exec_cases h with ⟨r, rfl⟩ | ⟨-, -, es, -, ht⟩ | ⟨-, -, rfl⟩ | ⟨a, c, -, hm, rfl⟩
  · exact ⟨[], (List.append_nil _).symm⟩
  · exact ⟨es, trace_of_events (by rw [ht])⟩
  · exact ⟨_, trace_of_events (by rw [runCheck_eq])⟩
  · exact ⟨_, trace_of_events (by rw [runReadflash_eq a c hm])⟩

/-- No instruction clears `ERR` (60_exceptions.md R182). -/
theorem exec_err_sticky {i : Instr} {s t : State} (h : exec i s = .next t) (he : s.err = true) : t.err = true := by
  rcases exec_cases h with ⟨r, rfl⟩ | ⟨-, -, es, -, ht⟩ | ⟨-, -, rfl⟩ | ⟨a, c, -, hm, rfl⟩
  · rfl
  · rw [ht]; exact he
  · rw [runCheck_eq]; exact he
  · rw [runReadflash_eq a c hm]; exact he

/-- Settles O19: no arm of `exec` ends in a fault or a refusal of the model. -/
theorem everyInstructionGoesOn : Obligations.EveryInstructionGoesOn := exec_next

/-- Settles O56: by the ways an instruction can end, only READFLASH writes the buffer and only CHECK the flag. -/
theorem eachResultHasOneWriter : Obligations.EachResultHasOneWriter := by
  intro s t i h
  have hf := exec_frame h
  refine ⟨fun hi a => ?_, fun hi => ?_, by rw [hf], by rw [hf], by rw [hf], by rw [hf], by rw [hf], by rw [hf],
    by rw [hf]⟩
  · rcases exec_cases h with ⟨r, rfl⟩ | ⟨-, -, es, -, ht⟩ | ⟨-, -, rfl⟩ | ⟨b, c, rfl, -, -⟩
    · rfl
    · rw [ht]
    · rw [runCheck_eq]
    · exact absurd rfl (hi b c)
  · rcases exec_cases h with ⟨r, rfl⟩ | ⟨-, -, es, -, ht⟩ | ⟨rfl, -, -⟩ | ⟨b, c, -, hm, rfl⟩
    · rfl
    · rw [ht]
    · exact absurd rfl hi
    · rw [runReadflash_eq b c hm]

/-- Settles O57: an instruction that is neither CHECK nor READFLASH is refused or drives the lines only. -/
theorem onlyCheckAndReadflashSample : Obligations.OnlyCheckAndReadflashSample := by
  intro s t i h hc hr
  rcases exec_cases h with ⟨r, rfl⟩ | ⟨-, -, es, hes, ht⟩ | ⟨rfl, -, -⟩ | ⟨a, c, rfl, -, -⟩
  · exact ⟨[], (List.append_nil _).symm, rfl, rfl, rfl⟩
  · exact ⟨es, trace_of_events (by rw [ht]), hes, by rw [ht], by rw [ht]⟩
  · exact absurd rfl hc
  · exact absurd rfl (hr a c)

/-! ### The mode an instruction leaves (R21, R22) -/

/-- The mode after an instruction from the mode `m`. -/
def modeAfter (i : Instr) (m : Mode) : Mode :=
  match i with
  | .handshake => .modeReset
  | .reset => if m = .uninitialized then .uninitialized else .modeReset
  | .switchmode tgt =>
    if m = .uninitialized then .uninitialized
    else if tgt = 0x96 then .icpMode else if tgt = 0xA5 then .altMode else m
  | .readflash _ _ => if m = .uninitialized then .uninitialized else .icpMode
  | _ => m

theorem modeAfter_of_not_switch {i : Instr} (h : i = .check ∨ i = .ping ∨ i.isCommand = false) (m : Mode) :
    modeAfter i m = m := by
  cases i with
  | handshake => simp [Instr.isCommand] at h
  | reset => simp [Instr.isCommand] at h
  | switchmode t => simp [Instr.isCommand] at h
  | readflash a c => simp [Instr.isCommand] at h
  | _ => rfl

/-- Only HANDSHAKE leaves Uninitialized. -/
theorem modeAfter_uninitialized {i : Instr} (h : i ≠ .handshake) : modeAfter i .uninitialized = .uninitialized := by
  cases i with
  | handshake => exact absurd rfl h
  | _ => rfl

theorem mode_runSwitch (tgt : Byte) (s : State) : (runSwitch tgt s).mode = modeAfter (.switchmode tgt) s.mode := by
  rcases runSwitch_cases tgt s with ⟨hl, h⟩ | ⟨-, hm, h⟩ | ⟨hl, hm, hc, h⟩ | ⟨rfl, hm, -, h⟩ | ⟨rfl, hm, -, h⟩
  · have hne : tgt ≠ MODE_ICP ∧ tgt ≠ MODE_ALT := not_or.mp fun ht => by
      simp [legalTarget_iff.mpr ht] at hl
    have hicp : tgt ≠ 0x96 := hne.1
    have halt : tgt ≠ 0xA5 := hne.2
    rw [h, refuse_mode, modeAfter]
    by_cases hm : s.mode = .uninitialized
    · rw [if_pos hm, hm]
    · rw [if_neg hm, if_neg hicp, if_neg halt]
  · simp [h, modeAfter, hm]
  · subst hc
    rw [h]
    cases hs : s.mode with
    | uninitialized => exact absurd hs hm
    | modeReset => rfl
    | icpMode => rfl
    | altMode => rfl
  · rw [h, modeAfter, if_neg hm]
    rfl
  · rw [h, modeAfter, if_neg hm]
    rfl

theorem mode_runReset (s : State) : (runReset s).mode = modeAfter .reset s.mode := by
  rw [runReset_eq]
  cases hm : s.mode <;> simp [modeAfter, hm]

theorem mode_exec_of_wire {i : Instr} {s t : State} (hi : i.isCommand = false) (h : exec i s = .next t) :
    t.mode = s.mode := by
  obtain ⟨d, es, -, hexec⟩ := exec_wire hi
  obtain rfl := Host.Outcome.next.inj ((hexec s).symm.trans h)
  rfl

/-- Every instruction leaves the mode of the table. -/
theorem mode_exec {i : Instr} {s t : State} (h : exec i s = .next t) : t.mode = modeAfter i s.mode := by
  cases i with
  | handshake =>
    obtain rfl := Host.Outcome.next.inj h
    rfl
  | reset =>
    obtain rfl := Host.Outcome.next.inj h
    exact mode_runReset s
  | switchmode tgt =>
    obtain rfl := Host.Outcome.next.inj h
    exact mode_runSwitch tgt s
  | check =>
    obtain rfl := Host.Outcome.next.inj h
    rcases whenInitialized_cases runCheck s with ⟨-, hr⟩ | ⟨-, hc⟩
    · rw [hr]; rfl
    · rw [hc, runCheck_eq]; rfl
  | ping =>
    obtain rfl := Host.Outcome.next.inj h
    rcases whenInitialized_cases runPing s with ⟨-, hr⟩ | ⟨-, hp⟩
    · rw [hr]; rfl
    · rw [hp, runPing_eq]; rfl
  | readflash a c =>
    obtain rfl := Host.Outcome.next.inj h
    rcases whenInitialized_cases (runReadflash a c) s with ⟨hm, hr⟩ | ⟨hm, hf⟩
    · rw [hr, refuse_mode, modeAfter, if_pos hm, hm]
    · rw [hf, runReadflash_eq a c hm, modeAfter, if_neg hm]
  | _ => exact mode_exec_of_wire rfl h

/-- Settles O55: each clause reads one row of `modeAfter`. -/
theorem modeTransitionsAreTheLegalOnes : Obligations.ModeTransitionsAreTheLegalOnes := by
  intro s t i h
  rw [mode_exec h]
  refine ⟨?_, ?_, ?_, ?_, fun hi hm => ?_, fun hi => modeAfter_of_not_switch hi s.mode⟩
  · rintro rfl
    rfl
  · rintro rfl
    rfl
  · rintro tgt rfl
    rfl
  · rintro a c rfl
    rfl
  · rw [hm, modeAfter_uninitialized hi]

end Sys2Proof.Machine
end

section
/-! The host port (10_state.md R29, R30): what a step answers to a read or a write of the window, and where a step
stops; hardware reset and the idle engine. -/

namespace Sys2Proof.Machine

/-! ### Reads -/

/-- A read of a register of the window: the word, and the counter of the free values. -/
theorem step_read_of_lt {s : State} {n : Nat} {rest : List Input} (hn : n < 32) (h : s.inputs = .read n :: rest) :
    step s = .next { s with
      inputs := rest, readData := windowValue (Config.freeRead s.freeReads) n s, freeReads := s.freeReads + 1 } := by
  rw [step_read h, portRead_of_lt hn]
  rfl

/-- Settles O23: the answer to a read is the state with a new word and one free value taken. -/
theorem windowReadHasNoSideEffect : Obligations.WindowReadHasNoSideEffect := fun _ _ _ hn h =>
  ⟨_, step_read_of_lt hn h, rfl⟩

/-- Settles O24: by the fields of `statusWord`. -/
theorem statusReadGivesItsFields : Obligations.StatusReadGivesItsFields := by
  intro s rest h
  refine ⟨_, step_read_of_lt (by decide) h, ?_⟩
  rw [windowValue_status, statusRead]
  obtain ⟨hbusy, hchk, herr, hlow, hmode, hhigh⟩ := statusWord_fields s.busy
    (if s.busy || !s.chkValid then (Config.freeRead s.freeReads).getLsbD 1 else s.chk) s.err
    (if s.busy then (Config.freeRead s.freeReads).extractLsb' 8 8 else s.mode.code)
  refine ⟨hbusy, herr, hlow, hhigh, fun hb hv => ?_, fun hb => ?_⟩
  · rw [hchk]
    simp [hb, hv]
  · rw [hmode]
    simp only [hb, Bool.false_eq_true, if_false]
    cases s.mode <;> rfl

/-- Settles O25: by the value of each register and the fields of CONFIG and `RBUFi`. -/
theorem configReservedAndBufferReads : Obligations.ConfigReservedAndBufferReads := by
  intro s n rest h
  refine ⟨?_, fun h3 h15 => ?_, fun h16 h31 => ?_⟩
  · rintro rfl
    exact ⟨_, step_read_of_lt (by decide) h, configWord_fields s.cfg⟩
  · exact ⟨_, step_read_of_lt (by omega) h, windowValue_reserved _ h3 h15 s⟩
  · refine ⟨_, step_read_of_lt (by omega) h, ?_⟩
    rw [windowValue_rbuf _ h16]
    obtain ⟨hhigh, hlow⟩ := rbufRead_fields (Config.freeRead s.freeReads) (n - 16) s
    refine ⟨hhigh, fun hb hv => ?_⟩
    rw [hlow]
    simp [hb, hv]

/-! ### Writes -/

/-- Settles O26: a write to any register but `CMD` is taken from the port and leaves the engine alone. -/
theorem writesOutsideCmdAreIgnored : Obligations.WritesOutsideCmdAreIgnored := by
  intro s n w rest h1 h32 h
  rw [step_write (by simp only [regCmd]; omega) h, portWrite_of_lt h32]

/-! ### Where a step stops -/

theorem settleOutcome_next {o : Host.Outcome State Fault Refusal} (h : ∃ t, o = .next t) :
    ∃ t, settleOutcome o = .next t := by
  obtain ⟨t, rfl⟩ := h
  exact ⟨settle t, rfl⟩

/-- A frame step has a next state. -/
theorem frameStep_next (s : State) : ∃ t, frameStep s = .next t := by
  unfold frameStep
  split
  · split
    · exact settleOutcome_next (exec_next _ _)
    · exact ⟨_, rfl⟩
  · exact ⟨_, rfl⟩
  · exact ⟨_, rfl⟩
  · exact ⟨_, rfl⟩

/-- A call has a next state. -/
theorem callCommand_next (w : Word) (s : State) : ∃ t, callCommand w s = .next t := by
  unfold callCommand
  split
  · exact exec_next _ _
  · exact ⟨_, rfl⟩

/-- A step that answers no access to the window has a next state. -/
theorem step_next_of_no_access {s : State} (hr : ∀ n, s.inputs.head? ≠ some (.read n))
    (hw : ∀ n w, n ≠ regCmd → s.inputs.head? ≠ some (.write n w)) : ∃ t, step s = .next t := by
  unfold step busyStep idleStep
  cases hs : s.inputs with
  | nil => split <;> exact ⟨_, rfl⟩
  | cons x rest =>
    rw [hs] at hr hw
    cases x with
    | call w => split; exacts [⟨_, rfl⟩, callCommand_next w _]
    | write n w =>
      have hn : n = regCmd := by_contra fun hn => hw n w hn rfl
      simp only [if_pos hn]
      split <;> exact ⟨_, rfl⟩
    | read n => exact absurd rfl (hr n)
    | tick => split <;> exact ⟨_, rfl⟩
    | frame => split; exacts [frameStep_next _, ⟨_, rfl⟩]
    | hardReset => split <;> exact ⟨_, rfl⟩

/-- Settles O20: an access is answered or stops by its register number, and nothing else stops. -/
theorem stepStopsOnlyOutsideTheWindow : Obligations.StepStopsOnlyOutsideTheWindow := by
  constructor
  · rintro s n hn (h | ⟨w, h⟩)
    · obtain ⟨rest, hs⟩ := List.head?_eq_some_iff.mp h
      rw [step_read hs, portRead_of_ge hn]
    · obtain ⟨rest, hs⟩ := List.head?_eq_some_iff.mp h
      rw [step_write (by simp only [regCmd]; omega) hs, portWrite_of_ge hn]
  · intro s hin
    by_cases hr : ∃ n, s.inputs.head? = some (.read n)
    · obtain ⟨n, h⟩ := hr
      obtain ⟨rest, hs⟩ := List.head?_eq_some_iff.mp h
      exact ⟨_, step_read_of_lt (hin n (.inl h)) hs⟩
    by_cases hw : ∃ n w, n ≠ regCmd ∧ s.inputs.head? = some (.write n w)
    · obtain ⟨n, w, hn, h⟩ := hw
      obtain ⟨rest, hs⟩ := List.head?_eq_some_iff.mp h
      exact ⟨_, by rw [step_write hn hs, portWrite_of_lt (hin n (.inr ⟨w, h⟩))]⟩
    · exact step_next_of_no_access (fun n h => hr ⟨n, h⟩) (fun n w hn h => hw ⟨n, w, hn, h⟩)

/-! ### Hardware reset and the idle engine (70_reset_and_hazards.md R200, R201) -/

/-- Settles O16: `hardReset` is the reset state but for what is not engine state. -/
theorem hardwareResetEndsAnyOperation : Obligations.HardwareResetEndsAnyOperation := fun _ _ h =>
  ⟨_, step_hardReset h, rfl, rfl, rfl, rfl, rfl, rfl, rfl, rfl, rfl, fun _ => rfl, rfl, rfl⟩

/-- Settles O17. -/
theorem resetStateHasTheSpecValues : Obligations.ResetStateHasTheSpecValues :=
  ⟨rfl, rfl, rfl, rfl, rfl, rfl, fun _ => rfl⟩

/-- Settles O18. -/
theorem idleEngineChangesNothing : Obligations.IdleEngineChangesNothing := by
  intro s hb h
  rw [step_of_idle hb, idleStep, h]

end Sys2Proof.Machine
end

section
/-! The mode frame, the sizes of the three frames, and the wire values put on the lines (30_encoding.md sections 3
and 4, 41_transfer_primitives.md). -/

namespace Sys2Proof.Machine

/-! ### The frames -/

theorem dinAtPulses_modeFrame (b : Bool) (v : Byte) :
    dinAtPulses b (modeFrame v) =
      [v.getLsbD 7, v.getLsbD 6, v.getLsbD 5, v.getLsbD 4, v.getLsbD 3, v.getLsbD 2, v.getLsbD 1, v.getLsbD 0,
        v.getLsbD 0, v.getLsbD 0] := by
  have hlast := dinAtPulses_pulse (v.getLsbD 0) []
  rw [List.append_nil, dinAtPulses_nil] at hlast
  rw [modeFrame, List.append_assoc, dinAtPulses_dataSlots, dinAtPulses_pulse, hlast]
  rfl

theorem trace_sendModeByte (v : Byte) (s : State) : (sendModeByte v s).trace = s.trace ++ modeFrame v :=
  trace_of_events (by rw [sendModeByte_eq])

theorem din_sendModeByte (v : Byte) (s : State) : (sendModeByte v s).din = v.getLsbD 0 := by rw [sendModeByte_eq]

/-- Settles O28: the frame is `modeFrame v`, whose last two pulses follow no drive of DIN. -/
theorem modeFrameSlots : Obligations.ModeFrameSlots := by
  intro v s
  refine ⟨modeFrame v, trace_sendModeByte v s, pulseCount_modeFrame v, rfl, dinAtPulses_modeFrame s.din v,
    din_sendModeByte v s, ?_, ?_⟩
  · rintro rfl
    rw [din_sendModeByte]
    rfl
  · rintro rfl
    rw [din_sendModeByte]
    rfl

/-- Settles O30: the sizes of `commandFrame`, `modeFrame` and `receiveFrame`. -/
theorem frameSizes : Obligations.FrameSizes := by
  intro v s
  refine ⟨⟨_, trace_sendByteMSBFirst v s, length_commandFrame v, samplesOf_commandFrame v, waitSum_commandFrame v⟩,
    ⟨_, trace_sendModeByte v s, length_modeFrame v, samplesOf_modeFrame v, waitSum_modeFrame v⟩,
    ⟨_, trace_receiveByte s, length_receiveFrame _, ?_, waitSum_receiveFrame _⟩⟩
  rw [samplesOf_receiveFrame]
  rfl

/-- A sent byte leaves the draws alone, so the receiver after it samples what the target was about to present. -/
theorem getLsbD_acc_receiveByte_sendByteMSBFirst (v : Byte) (s : State) {i : Nat} (hi : i < 8) :
    (receiveByte (sendByteMSBFirst v s)).acc.getLsbD i = s.drawAt i := by
  rw [getLsbD_acc_receiveByte _ hi, sendByteMSBFirst_eq]
  rfl

/-- Settles O31: bit `i` of the byte received is sample `i`, which is bit `i` of `v` or bit `7 - i`. -/
theorem sentByteComesBackThroughAReversingResponder :
    Obligations.SentByteComesBackThroughAReversingResponder := by
  intro v s rest
  constructor
  · intro h
    apply BitVec.eq_of_getLsbD_eq
    intro i hi
    rw [getLsbD_acc_receiveByte_sendByteMSBFirst v s hi, State.drawAt, h]
    interval_cases i <;> rfl
  · intro h
    apply BitVec.eq_of_getLsbD_eq
    intro i hi
    rw [getLsbD_acc_receiveByte_sendByteMSBFirst v s hi, State.drawAt, h, BitVec.getLsbD_reverse]
    interval_cases i <;> rfl

/-! ### The wire values -/

/-- A command frame writes CLK, DIN and `BITN` only. -/
theorem sendByteMSBFirst_runs (v : Byte) (s : State) :
    ∃ t, Host.Outcome.next (φ := Fault) (ρ := Refusal) (sendByteMSBFirst v s) = .next t ∧
      t.trace = s.trace ++ commandFrame v ∧
      t = { s with clk := false, din := false, bitn := t.bitn, events := t.events } :=
  ⟨_, rfl, trace_sendByteMSBFirst v s, by rw [sendByteMSBFirst_eq]⟩

/-- A mode frame writes CLK, DIN and `BITN` only. -/
theorem sendModeByte_runs (v : Byte) (s : State) :
    ∃ t, Host.Outcome.next (φ := Fault) (ρ := Refusal) (sendModeByte v s) = .next t ∧
      t.trace = s.trace ++ modeFrame v ∧
      t = { s with clk := false, din := v.getLsbD 0, bitn := t.bitn, events := t.events } :=
  ⟨_, rfl, trace_sendModeByte v s, by rw [sendModeByte_eq]⟩

/-- Settles O32: each of the nine rows is the command frame of its byte. -/
theorem commandFrameWireValuesRun : Obligations.CommandFrameWireValuesRun := by
  intro i v s hrow
  simp only [List.mem_cons, Prod.mk.injEq, List.not_mem_nil, or_false] at hrow
  rcases hrow with ⟨rfl, rfl⟩ | ⟨rfl, rfl⟩ | ⟨rfl, rfl⟩ | ⟨rfl, rfl⟩ | ⟨rfl, rfl⟩ | ⟨rfl, rfl⟩ | ⟨rfl, rfl⟩ |
    ⟨rfl, rfl⟩ | ⟨rfl, rfl⟩ <;> exact sendByteMSBFirst_runs _ s

/-- Settles O33: the two rows are the mode frames of their bytes. -/
theorem modeFrameWireValuesRun : Obligations.ModeFrameWireValuesRun := fun s =>
  ⟨sendModeByte_runs 0x96 s, sendModeByte_runs 0xA5 s⟩

end Sys2Proof.Machine
end

section
/-! HANDSHAKE, RESET and SWITCHMODE run as commands (42_entry_handshake.md, 43_mode_switch.md): their traces, the fields
they write, their sizes and their refusals. -/

namespace Sys2Proof.Machine

/-! ### HANDSHAKE -/

theorem trace_runHandshake (s : State) : (runHandshake s).trace = s.trace ++ handshakeTrace :=
  trace_of_events (by rw [runHandshake_eq])

/-- Settles O34: by the equation of `runHandshake`. -/
theorem handshakeRunsTheEntrySequence : Obligations.HandshakeRunsTheEntrySequence := fun s =>
  ⟨runHandshake s, exec_handshake s, trace_runHandshake s, by rw [runHandshake_eq]⟩

/-- Settles O35: the sizes of `handshakeTrace`, stage by stage. -/
theorem handshakeSizes : Obligations.HandshakeSizes := by
  intro s t h
  obtain rfl := Host.Outcome.next.inj h
  exact ⟨handshakeTrace, trace_runHandshake s, sized_handshakeTrace.events_eq, sized_handshakeTrace.time_eq,
    sized_handshakeTrace.pulses_eq, sized_handshakeTrace.noSamples⟩

/-! ### RESET -/

theorem trace_runReset (s : State) : (runReset s).trace = s.trace ++ resetTrace s.mode := by
  rw [runReset_eq]
  cases hm : s.mode with
  | uninitialized => exact (List.append_nil _).symm
  | modeReset => exact (List.append_nil _).symm
  | icpMode => exact trace_of_events rfl
  | altMode => exact trace_of_events rfl

/-- Settles O37: the branch of each mode. -/
theorem resetRunsTheBranchOfTheMode : Obligations.ResetRunsTheBranchOfTheMode := by
  intro s h
  refine ⟨runReset s, exec_reset s, trace_runReset s, ?_⟩
  rw [runReset_eq]
  cases hm : s.mode with
  | uninitialized => exact absurd hm h
  | modeReset =>
    cases s
    cases hm
    rfl
  | icpMode => rfl
  | altMode => rfl

/-! ### SWITCHMODE -/

theorem code_ne_icp {m : Mode} (h : m ≠ .icpMode) : m.code ≠ MODE_ICP := by
  cases m with
  | icpMode => exact absurd rfl h
  | _ => decide

theorem code_ne_alt {m : Mode} (h : m ≠ .altMode) : m.code ≠ MODE_ALT := by
  cases m with
  | altMode => exact absurd rfl h
  | _ => decide

theorem exec_switchmode_icp {s : State} (h : s.mode ≠ .uninitialized) (hc : s.mode ≠ .icpMode) :
    exec (.switchmode 0x96) s = .next (enterMode MODE_ICP (runReset s)) := by
  rw [← switchTo_of_ne (code_ne_icp hc), ← runSwitch_of_legal rfl h]
  rfl

theorem exec_switchmode_alt {s : State} (h : s.mode ≠ .uninitialized) (hc : s.mode ≠ .altMode) :
    exec (.switchmode 0xA5) s = .next (enterMode MODE_ALT (runReset s)) := by
  rw [← switchTo_of_ne (code_ne_alt hc), ← runSwitch_of_legal rfl h]
  rfl

theorem exec_switchmode_of_icp {s : State} (h : s.mode = .icpMode) : exec (.switchmode 0x96) s = .next s :=
  switchmodeIsIdempotent.1 s h

theorem exec_switchmode_of_alt {s : State} (h : s.mode = .altMode) : exec (.switchmode 0xA5) s = .next s :=
  switchmodeIsIdempotent.2.1 s h

theorem trace_enterIcp (s : State) : (enterMode MODE_ICP s).trace = s.trace ++ enterIcpTrace :=
  trace_of_events (by rw [enterMode_icp_eq])

theorem trace_enterAlt (s : State) : (enterMode MODE_ALT s).trace = s.trace ++ enterAltTrace :=
  trace_of_events (by rw [enterMode_alt_eq])

/-- Settles O39: RESET does nothing in ModeReset, so what is left is the entry. -/
theorem switchmodeEntersFromModeReset : Obligations.SwitchmodeEntersFromModeReset := by
  intro s hm
  have h : s.mode ≠ .uninitialized := by simp [hm]
  rw [exec_switchmode_icp h (by simp [hm]), exec_switchmode_alt h (by simp [hm]), runReset_of_modeReset hm]
  exact ⟨⟨_, rfl, trace_enterIcp s, by rw [enterMode_icp_eq]⟩, ⟨_, rfl, trace_enterAlt s, by rw [enterMode_alt_eq]⟩⟩

/-- Settles O40: the branch of the mode left, then the entry. -/
theorem switchmodeBetweenActiveModesGoesThroughReset :
    Obligations.SwitchmodeBetweenActiveModesGoesThroughReset := by
  intro s
  constructor
  · intro hm
    refine ⟨_, exec_switchmode_icp (s := s) (by simp [hm]) (by simp [hm]), ?_, ?_⟩
    · rw [trace_enterIcp, trace_runReset, hm]
    · rw [enterMode_icp_eq, runReset, hm]
      simp only [resetFromAlt_eq]
  · intro hm
    refine ⟨_, exec_switchmode_alt (s := s) (by simp [hm]) (by simp [hm]), ?_, ?_⟩
    · rw [trace_enterAlt, trace_runReset, hm]
    · rw [enterMode_alt_eq, runReset, hm]
      simp only [resetFromIcp_eq]

/-! ### Refusals (60_exceptions.md) -/

theorem legalTarget_eq_false {tgt : Byte} (hicp : tgt ≠ 0x96) (halt : tgt ≠ 0xA5) : legalTarget tgt = false :=
  Bool.eq_false_iff.mpr fun h => (legalTarget_iff.mp h).elim hicp halt

/-- Settles O41: `BadTarget` is checked first. -/
theorem switchmodeRefusesEveryOtherTarget : Obligations.SwitchmodeRefusesEveryOtherTarget := fun s _ hicp halt =>
  exec_of_refused (refusalReason_badTarget (legalTarget_eq_false hicp halt) s.mode)

/-- Settles O42: every command but HANDSHAKE has `NotInitialized` as its reason. -/
theorem uninitializedEngineRefusesAllButHandshake : Obligations.UninitializedEngineRefusesAllButHandshake := by
  intro s i hm hc hh hwf
  refine exec_of_refused ?_
  rw [hm]
  refine refusalReason_notInitialized hc hh ?_
  rintro tgt rfl
  exact hwf

/-! ### Sizes -/

/-- The instruction adds events of these sizes, and no sample, to the trace. -/
def AddsSized (i : Instr) (s : State) (events pulses time : Nat) : Prop :=
  ∃ t es, exec i s = .next t ∧ t.trace = s.trace ++ es ∧ Sized es events pulses time 0

theorem addsSized_of_noop {i : Instr} {s : State} (h : exec i s = .next s) : AddsSized i s 0 0 0 :=
  ⟨s, [], h, (List.append_nil _).symm, sized_nil⟩

theorem addsSized_reset {s : State} {n w : Nat} (h : Sized (resetTrace s.mode) n 0 w 0) : AddsSized .reset s n 0 w :=
  ⟨_, _, exec_reset s, trace_runReset s, h⟩

/-- RESET's branch, then the entry into IcpMode. -/
theorem addsSized_switchmode_icp {s : State} {n w : Nat} (h : s.mode ≠ .uninitialized) (hc : s.mode ≠ .icpMode)
    (hr : Sized (resetTrace s.mode) n 0 w 0) : AddsSized (.switchmode 0x96) s (n + 143) 28 (w + 860) :=
  ⟨_, _, exec_switchmode_icp h hc, by rw [trace_enterIcp, trace_runReset, List.append_assoc],
    (hr.append sized_enterIcpTrace).congr rfl (Nat.zero_add _) rfl⟩

/-- RESET's branch, then the entry into AltMode. -/
theorem addsSized_switchmode_alt {s : State} {n w : Nat} (h : s.mode ≠ .uninitialized) (hc : s.mode ≠ .altMode)
    (hr : Sized (resetTrace s.mode) n 0 w 0) : AddsSized (.switchmode 0xA5) s (n + 84) 18 (w + 38) :=
  ⟨_, _, exec_switchmode_alt h hc, by rw [trace_enterAlt, trace_runReset, List.append_assoc],
    (hr.append sized_enterAltTrace).congr rfl (Nat.zero_add _) rfl⟩

/-- Settles O43: row by row, the sizes of RESET's branch and of the entry. -/
theorem resetAndSwitchmodeSizes : Obligations.ResetAndSwitchmodeSizes := by
  intro s t i m events pulses time hrow hm hexec
  suffices h : AddsSized i s events pulses time by
    obtain ⟨u, es, hu, htrace, hes⟩ := h
    obtain rfl := Host.Outcome.next.inj (hu.symm.trans hexec)
    exact ⟨es, htrace, hes.events_eq, hes.pulses_eq, hes.time_eq, hes.noSamples⟩
  have hreset : m = .modeReset → Sized (resetTrace s.mode) 0 0 0 0 := fun h => by
    rw [hm, h]
    exact sized_nil
  have hicp : m = .icpMode → Sized (resetTrace s.mode) 5 0 4 0 := fun h => by
    rw [hm, h]
    exact sized_resetFromIcp
  have halt : m = .altMode → Sized (resetTrace s.mode) 142 0 140 0 := fun h => by
    rw [hm, h]
    exact sized_resetFromAlt
  simp only [List.mem_cons, Prod.mk.injEq, List.not_mem_nil, or_false] at hrow
  rcases hrow with ⟨rfl, rfl, rfl, rfl, rfl⟩ | ⟨rfl, rfl, rfl, rfl, rfl⟩ | ⟨rfl, rfl, rfl, rfl, rfl⟩ |
    ⟨rfl, rfl, rfl, rfl, rfl⟩ | ⟨rfl, rfl, rfl, rfl, rfl⟩ | ⟨rfl, rfl, rfl, rfl, rfl⟩ | ⟨rfl, rfl, rfl, rfl, rfl⟩ |
    ⟨rfl, rfl, rfl, rfl, rfl⟩ | ⟨rfl, rfl, rfl, rfl, rfl⟩
  · exact addsSized_reset (hreset rfl)
  · exact addsSized_reset (hicp rfl)
  · exact addsSized_reset (halt rfl)
  · exact addsSized_of_noop (exec_switchmode_of_icp hm)
  · exact addsSized_switchmode_icp (by simp [hm]) (by simp [hm]) (hreset rfl)
  · exact addsSized_switchmode_icp (by simp [hm]) (by simp [hm]) (halt rfl)
  · exact addsSized_of_noop (exec_switchmode_of_alt hm)
  · exact addsSized_switchmode_alt (by simp [hm]) (by simp [hm]) (hreset rfl)
  · exact addsSized_switchmode_alt (by simp [hm]) (by simp [hm]) (hicp rfl)

end Sys2Proof.Machine
end

section
/-! The edges of CLK on the wire (00_scope.md R12), added up along event lists: the AltMode branch of RESET
(43_mode_switch.md R131) and PING (44_probes.md R151). -/

namespace Sys2Proof.Machine

/-- From the level `b` the events show these edges of the line and leave it at the level `b'`. -/
structure EdgesFrom (l : Line) (b : Bool) (es : List Event) (rising falling : Nat) (b' : Bool) : Prop where
  rising_eq : risingEdges l b es = rising
  falling_eq : fallingEdges l b es = falling
  level_eq : levelAfter l b es = b'

theorem risingEdges_append (l : Line) (b : Bool) (es fs : List Event) :
    risingEdges l b (es ++ fs) = risingEdges l b es + risingEdges l (levelAfter l b es) fs := by
  induction es generalizing b with
  | nil => simp [risingEdges, levelAfter]
  | cons e es ih =>
    cases e with
    | set m => by_cases hm : m = l <;> simp [risingEdges, levelAfter, hm, ih, Nat.add_assoc]
    | clr m => simp [risingEdges, levelAfter, ih]
    | cfg => simp [risingEdges, levelAfter, ih]
    | wait n => simp [risingEdges, levelAfter, ih]
    | smp c => simp [risingEdges, levelAfter, ih]

theorem fallingEdges_append (l : Line) (b : Bool) (es fs : List Event) :
    fallingEdges l b (es ++ fs) = fallingEdges l b es + fallingEdges l (levelAfter l b es) fs := by
  induction es generalizing b with
  | nil => simp [fallingEdges, levelAfter]
  | cons e es ih =>
    cases e with
    | clr m => by_cases hm : m = l <;> simp [fallingEdges, levelAfter, hm, ih, Nat.add_assoc]
    | set m => simp [fallingEdges, levelAfter, ih]
    | cfg => simp [fallingEdges, levelAfter, ih]
    | wait n => simp [fallingEdges, levelAfter, ih]
    | smp c => simp [fallingEdges, levelAfter, ih]

theorem levelAfter_append (l : Line) (b : Bool) (es fs : List Event) :
    levelAfter l b (es ++ fs) = levelAfter l (levelAfter l b es) fs := by
  induction es generalizing b with
  | nil => simp [levelAfter]
  | cons e es ih => cases e <;> simp [levelAfter, ih]

theorem EdgesFrom.append {l : Line} {b b' b'' : Bool} {es fs : List Event} {r f r' f' : Nat}
    (h : EdgesFrom l b es r f b') (h' : EdgesFrom l b' fs r' f' b'') :
    EdgesFrom l b (es ++ fs) (r + r') (f + f') b'' where
  rising_eq := by rw [risingEdges_append, h.rising_eq, h.level_eq, h'.rising_eq]
  falling_eq := by rw [fallingEdges_append, h.falling_eq, h.level_eq, h'.falling_eq]
  level_eq := by rw [levelAfter_append, h.level_eq, h'.level_eq]

theorem EdgesFrom.repeated {l : Line} {b : Bool} {es : List Event} {r f : Nat} (h : EdgesFrom l b es r f b) (n : Nat) :
    EdgesFrom l b (repeated n es) (n * r) (n * f) b := by
  induction n with
  | zero => exact ⟨by simp [repeated_zero, risingEdges], by simp [repeated_zero, fallingEdges], rfl⟩
  | succ n ih =>
    rw [repeated_succ_right, Nat.succ_mul, Nat.succ_mul]
    exact ih.append h

/-! ### RESET from AltMode -/

theorem edgesFrom_lowPulse_clk (b : Bool) (m n : Nat) :
    EdgesFrom .clk b (lowPulseEvents .clk m n) 1 (if b then 1 else 0) true := ⟨rfl, rfl, rfl⟩

theorem edgesFrom_msel (b : Bool) {e : Event} (h : e = .set .msel ∨ e = .clr .msel) : EdgesFrom .clk b [e] 0 0 b := by
  rcases h with rfl | rfl <;> exact ⟨rfl, rfl, rfl⟩

/-- Settles O44: the first low-pulse has no falling edge, the other thirty-four have both. -/
theorem resetFromAltModeEdges : Obligations.ResetFromAltModeEdges := by
  intro s t hm hc h
  obtain rfl := Host.Outcome.next.inj h
  refine ⟨resetTrace s.mode, trace_runReset s, ?_⟩
  have hpulses : EdgesFrom .clk false (repeated 35 (lowPulseEvents .clk 2 2)) 35 34 true :=
    (edgesFrom_lowPulse_clk false 2 2).append ((edgesFrom_lowPulse_clk true 2 2).repeated 34)
  have hedges : EdgesFrom .clk false (resetTrace .altMode) 35 34 true :=
    ((edgesFrom_msel false (.inl rfl)).append hpulses).append (edgesFrom_msel true (.inr rfl))
  rw [hm, hc]
  exact ⟨hedges.rising_eq, hedges.falling_eq⟩

/-! ### PING -/

/-- A slot shows both edges of its pulse, but for the rising edge where CLK is high already. -/
theorem edgesFrom_slot (b c : Bool) : EdgesFrom .clk b (slotEvents c) (if b then 0 else 1) 1 false := by
  cases c <;> exact ⟨rfl, rfl, rfl⟩

theorem edgesFrom_commandFrame (b : Bool) (v : Byte) :
    EdgesFrom .clk b (commandFrame v) ((if b then 0 else 1) + 8) 9 false :=
  ((((((((edgesFrom_slot b _).append (edgesFrom_slot false _)).append (edgesFrom_slot false _)).append
    (edgesFrom_slot false _)).append (edgesFrom_slot false _)).append (edgesFrom_slot false _)).append
    (edgesFrom_slot false _)).append (edgesFrom_slot false _)).append (edgesFrom_slot false _)

theorem trace_runPing (s : State) : (runPing s).trace = s.trace ++ pingTrace := trace_of_events (by rw [runPing_eq])

theorem exec_ping_of_ne {s : State} (h : s.mode ≠ .uninitialized) : exec .ping s = .next (runPing s) := by
  rw [exec_ping, whenInitialized_of_ne h]

/-- Settles O46: only the first of the eighteen pulses can find CLK high. -/
theorem pingEnteredWithClkHighLosesOneRisingEdge : Obligations.PingEnteredWithClkHighLosesOneRisingEdge := by
  intro s t hm h
  rw [exec_ping_of_ne hm] at h
  obtain rfl := Host.Outcome.next.inj h
  have hedges := (edgesFrom_commandFrame s.clk 0x49).append (edgesFrom_commandFrame false 0xFF)
  refine ⟨pingTrace, trace_runPing s, sized_pingTrace.pulses_eq, hedges.rising_eq.trans ?_, hedges.falling_eq⟩
  cases s.clk <;> rfl

end Sys2Proof.Machine
end

section
/-! The probes PING and CHECK (44_probes.md). -/

namespace Sys2Proof.Machine

/-- Settles O45: `pingTrace` is the two command frames. -/
theorem pingSendsItsTwoFrames : Obligations.PingSendsItsTwoFrames := fun s hm =>
  ⟨runPing s, exec_ping_of_ne hm, by rw [trace_runPing, pingTrace, List.append_assoc], by rw [runPing_eq]⟩

theorem exec_check_of_ne {s : State} (h : s.mode ≠ .uninitialized) : exec .check s = .next (runCheck s) := by
  rw [exec_check, whenInitialized_of_ne h]

theorem trace_runCheck (s : State) : (runCheck s).trace = s.trace ++ (checkSends ++ receiveFrames s 2) :=
  trace_of_events (by rw [runCheck_eq])

/-- Settles O47: by the equation of `runCheck`. -/
theorem checkComparesTheFirstByteReceived : Obligations.CheckComparesTheFirstByteReceived := fun s hm =>
  ⟨runCheck s, exec_check_of_ne hm, by rw [trace_runCheck, List.append_assoc], by rw [runCheck_eq]⟩

/-- Eight samples make a byte exactly when they are its bits in order. -/
theorem byteOfSamples_eq_iff (f : Nat → Bool) (v : Byte) :
    byteOfSamples f = v ↔ (List.range 8).map f = (List.range 8).map v.getLsbD := by
  rw [List.map_inj_left]
  constructor
  · rintro rfl i hi
    exact (getLsbD_byteOfSamples f (List.mem_range.mp hi)).symm
  · intro h
    apply BitVec.eq_of_getLsbD_eq
    intro i hi
    rw [getLsbD_byteOfSamples f hi, h i (List.mem_range.mpr hi)]

/-- Settles O48: the flag compares the first byte with 0x69, whose bits are these. -/
theorem checkSucceedsExactlyOnTheEchoSamples : Obligations.CheckSucceedsExactlyOnTheEchoSamples := by
  intro s t hm h
  rw [exec_check_of_ne hm] at h
  obtain rfl := Host.Outcome.next.inj h
  have hfirst : s.incoming 0 = byteOfSamples s.drawAt := by simp [State.incoming]
  rw [runCheck_eq, hfirst, beq_iff_eq]
  exact byteOfSamples_eq_iff s.drawAt 0x69

end Sys2Proof.Machine
end

section
/-! READFLASH run as a command (45_flash_read.md). -/

namespace Sys2Proof.Machine

/-- Settles O49: by the equation of `runReadflash`. -/
theorem readflashRunsItsPhases : Obligations.ReadflashRunsItsPhases := fun s addr cb hm =>
  ⟨runReadflash addr cb s, exec_readflash_of_ne addr cb hm,
    by rw [trace_runReadflash addr cb hm]; simp only [List.append_assoc], by rw [runReadflash_eq addr cb hm]⟩

/-- Settles O50: the buffer is that of sixteen stores in ascending order. -/
theorem readflashFillsTheBufferInOrder : Obligations.ReadflashFillsTheBufferInOrder := by
  intro s t addr cb hm hwf h
  rw [exec_readflash_of_ne addr cb hm] at h
  obtain rfl := Host.Outcome.next.inj h
  rw [rbuf_runReadflash addr cb hm]
  exact ⟨fun _ hk => bufferAfter_read_below hwf (Nat.le_refl 16) hk, fun _ ha => bufferAfter_read_above s ha,
    bufferAfter_wf hwf (Nat.le_refl 16)⟩

/-- What READFLASH sends before the read opcode (phases P3 to P5). -/
def addressSends (c : ChipConfig) (addr : Addr24) : List Event :=
  (if c.extraPreamble then commandFrames [0x46, 0xFE, 0xFF] else []) ++
    commandFrames [0x40, addr.extractLsb' 0 8, 0x41, addr.extractLsb' 8 8] ++
    (if c.addrHighField then commandFrames [0x4C, addr.extractLsb' 16 8] else [])

theorem readflashSends_eq (c : ChipConfig) (addr : Addr24) (cb : Bool) :
    readflashSends c addr cb = addressSends c addr ++ commandFrame (if cb then 0x4A else 0x44) := by
  simp only [readflashSends, addressSends, List.flatten_cons, List.flatten_nil, List.append_nil, List.append_assoc]

/-- The opcode is all that `CB` chooses. -/
theorem runReadflash_cb (addr : Addr24) (cb cb' : Bool) {s : State} (h : s.mode ≠ .uninitialized) :
    runReadflash addr cb s = { runReadflash addr cb' s with events := (runReadflash addr cb s).events } := by
  rw [runReadflash_eq addr cb h, runReadflash_eq addr cb' h]

/-- Settles O51: both runs send the same but for the read opcode. -/
theorem cbChoosesTheReadOpcodeOnly : Obligations.CbChoosesTheReadOpcodeOnly := by
  intro s addr hm
  have htrace : ∀ cb, (runReadflash addr cb s).trace =
      s.trace ++ (resetTrace s.mode ++ enterIcpTrace ++ addressSends s.cfg addr) ++
        commandFrame (if cb then 0x4A else 0x44) ++ receiveFrames s 16 := fun cb => by
    rw [trace_runReadflash addr cb hm, readflashSends_eq]
    simp only [List.append_assoc]
  exact ⟨_, _, resetTrace s.mode ++ enterIcpTrace ++ addressSends s.cfg addr, _,
    by simp only [addressSends, List.append_assoc], rfl, exec_readflash_of_ne addr false hm,
    exec_readflash_of_ne addr true hm, htrace false, htrace true, runReadflash_cb addr true false hm⟩

/-- The two low address fields are cut from the low sixteen bits. -/
theorem addrByte_eq_of_low16 {a b : Addr24} (h : a.extractLsb' 0 16 = b.extractLsb' 0 16) {k : Fin 3}
    (hk : k.val < 2) : addrByte a k = addrByte b k := by
  apply BitVec.eq_of_getLsbD_eq
  intro i hi
  have hbit := congrArg (fun v => v.getLsbD (8 * k.val + i)) h
  have hlt : 8 * k.val + i < 16 := by omega
  simpa [addrByte, BitVec.getLsbD_extractLsb', hi, hlt] using hbit

/-- Without the third field the bytes sent depend on the low sixteen bits alone (20_memory.md R51). -/
theorem readBytes_eq_of_low16 {c : ChipConfig} (hc : c.addrHighField = false) {a b : Addr24}
    (h : a.extractLsb' 0 16 = b.extractLsb' 0 16) (cb : Bool) : readBytes c a cb = readBytes c b cb := by
  simp only [readBytes, hc, addrByte_eq_of_low16 h (k := 0) (by decide), addrByte_eq_of_low16 h (k := 1) (by decide),
    Bool.false_eq_true, if_false]

/-- Settles O53: the bytes sent are the same, and nothing else looks at the address. -/
theorem readflashIgnoresTheHighByteWhenNotConfigured :
    Obligations.ReadflashIgnoresTheHighByteWhenNotConfigured := by
  intro s a b cb hc h
  simp only [exec_readflash, whenInitialized, runReadflash, readBytes_eq_of_low16 hc h cb]

/-- Settles O54: the sizes of RESET's branch, the entry, what is sent and the data phase added up. -/
theorem readflashSizes : Obligations.ReadflashSizes := by
  intro s t addr cb hm h
  rw [exec_readflash_of_ne addr cb hm] at h
  obtain rfl := Host.Outcome.next.inj h
  have hes := (((sized_resetTrace s.mode).append sized_enterIcpTrace).append
    (sized_readflashSends s.cfg addr cb)).append (sized_receiveFrames s 16)
  exact ⟨_, trace_runReadflash addr cb hm, hes.events_eq.trans (by ring), hes.pulses_eq.trans (by ring),
    hes.time_eq.trans (by ring), hes.samples_eq⟩

end Sys2Proof.Machine
end

section
/-! What the target presents does not change what the engine drives (10_state.md R31): every operation run with other
draws ends in the same state but for the draws and what is read from them. -/

namespace Sys2Proof.Machine

/-- The same state with other draws to come. -/
def State.withDraws (s : State) (script : List Bool) (index : Nat) : State :=
  { s with dout := script, draws := index }

/-- The operation neither reads nor writes the draws. -/
def IgnoresDraws (op : State → State) : Prop :=
  ∀ s script index, op (s.withDraws script index) = (op s).withDraws script index

theorem ignoresDraws_runHandshake : IgnoresDraws runHandshake := fun s _ _ => by
  rw [runHandshake_eq, runHandshake_eq]
  rfl

theorem ignoresDraws_runReset : IgnoresDraws runReset := fun s script index => by
  have hm : (s.withDraws script index).mode = s.mode := rfl
  rw [runReset_eq, runReset_eq, hm]
  cases s.mode <;> rfl

theorem ignoresDraws_enterIcp : IgnoresDraws (enterMode MODE_ICP) := fun s _ _ => by
  rw [enterMode_icp_eq, enterMode_icp_eq]
  rfl

theorem ignoresDraws_enterAlt : IgnoresDraws (enterMode MODE_ALT) := fun s _ _ => by
  rw [enterMode_alt_eq, enterMode_alt_eq]
  rfl

theorem ignoresDraws_runPing : IgnoresDraws runPing := fun s _ _ => by
  rw [runPing_eq, runPing_eq]
  rfl

theorem IgnoresDraws.whenInitialized {op : State → State} (h : IgnoresDraws op) :
    IgnoresDraws (whenInitialized op) := by
  intro s script index
  by_cases hm : s.mode = .uninitialized
  · rw [whenInitialized_of_eq hm, whenInitialized_of_eq (s := s.withDraws script index) hm]
    rfl
  · rw [whenInitialized_of_ne hm, whenInitialized_of_ne (s := s.withDraws script index) hm, h]

theorem IgnoresDraws.switchTo {tgt : Byte} (h : IgnoresDraws (enterMode tgt)) : IgnoresDraws (switchTo tgt) := by
  intro s script index
  by_cases hc : s.mode.code = tgt
  · rw [switchTo_of_eq hc, switchTo_of_eq (s := s.withDraws script index) hc]
  · rw [switchTo_of_ne hc, switchTo_of_ne (s := s.withDraws script index) hc, ignoresDraws_runReset, h]

theorem ignoresDraws_runSwitch (tgt : Byte) : IgnoresDraws (runSwitch tgt) := by
  intro s script index
  unfold runSwitch
  by_cases ht : legalTarget tgt = true
  · rw [if_pos ht, if_pos ht]
    rcases legalTarget_iff.mp ht with rfl | rfl
    · exact ignoresDraws_enterIcp.switchTo.whenInitialized s script index
    · exact ignoresDraws_enterAlt.switchTo.whenInitialized s script index
  · rw [if_neg ht, if_neg ht]
    rfl

/-- An instruction that is neither CHECK nor READFLASH ignores the draws. -/
theorem exec_withDraws {i : Instr} (hc : i ≠ .check) (hr : ∀ a c, i ≠ .readflash a c) {s t : State}
    (h : exec i s = .next t) (script : List Bool) (index : Nat) :
    exec i (s.withDraws script index) = .next (t.withDraws script index) := by
  cases hi : i.isCommand with
  | false =>
    obtain ⟨d, es, -, hexec⟩ := exec_wire hi
    obtain rfl := Host.Outcome.next.inj ((hexec s).symm.trans h)
    exact hexec _
  | true =>
    cases i with
    | handshake => rw [exec_handshake, ignoresDraws_runHandshake, Host.Outcome.next.inj h]
    | reset => rw [exec_reset, ignoresDraws_runReset, Host.Outcome.next.inj h]
    | switchmode tgt => rw [exec_switchmode, ignoresDraws_runSwitch, Host.Outcome.next.inj h]
    | check => exact absurd rfl hc
    | ping => rw [exec_ping, ignoresDraws_runPing.whenInitialized, Host.Outcome.next.inj h]
    | readflash a c => exact absurd rfl (hr a c)
    | _ => cases hi

/-! ### The shape of what is sampled -/

theorem shape_receiveFrame (f g : Nat → Bool) :
    (receiveFrame f).map Event.shape = (receiveFrame g).map Event.shape := rfl

theorem shape_receiveFrames (s s' : State) (n : Nat) :
    (receiveFrames s n).map Event.shape = (receiveFrames s' n).map Event.shape := by
  induction n with
  | zero => rfl
  | succ n ih => rw [receiveFrames_succ, receiveFrames_succ, List.map_append, List.map_append, ih,
      shape_receiveFrame _ fun i => s'.drawAt (8 * n + i)]

/-- The two states have the same trace up to the sampled values, and differ in nothing but the draws and what is read
from them. -/
def SameButDraws (t t' : State) : Prop :=
  sameShape t t' ∧
    t' = { t with
      dout := t'.dout, draws := t'.draws, events := t'.events, acc := t'.acc, rbuf := t'.rbuf, chk := t'.chk }

theorem sameButDraws_withDraws (t : State) (script : List Bool) (index : Nat) :
    SameButDraws t (t.withDraws script index) := ⟨rfl, rfl⟩

/-- Traces that end in receive frames and are the same before them have the same shape. -/
theorem sameShape_of_receiveFrames {s s' t t' : State} {before sent : List Event} {n : Nat}
    (ht : t.trace = before ++ (sent ++ receiveFrames s n)) (ht' : t'.trace = before ++ (sent ++ receiveFrames s' n)) :
    sameShape t t' := by
  rw [sameShape, ht, ht']
  simp only [List.map_append, shape_receiveFrames s s']

section
variable (s : State) (script : List Bool) (index : Nat)

theorem sameButDraws_runCheck : SameButDraws (runCheck s) (runCheck (s.withDraws script index)) := by
  refine ⟨sameShape_of_receiveFrames (trace_runCheck s) (trace_runCheck (s.withDraws script index)), ?_⟩
  rw [runCheck_eq, runCheck_eq]
  rfl

theorem sameButDraws_runReadflash (a : Addr24) (c : Bool) (hm : s.mode ≠ .uninitialized) :
    SameButDraws (runReadflash a c s) (runReadflash a c (s.withDraws script index)) := by
  have hm' : (s.withDraws script index).mode ≠ .uninitialized := hm
  have htrace' : (runReadflash a c (s.withDraws script index)).trace =
      s.trace ++ (resetTrace s.mode ++ enterIcpTrace ++ readflashSends s.cfg a c ++
        receiveFrames (s.withDraws script index) 16) := trace_runReadflash a c hm'
  refine ⟨sameShape_of_receiveFrames (trace_runReadflash a c hm) htrace', ?_⟩
  rw [runReadflash_eq a c hm, runReadflash_eq a c hm']
  simp only [State.withDraws]
  rfl

theorem sameButDraws_whenInitialized {op : State → State}
    (h : s.mode ≠ .uninitialized → SameButDraws (op s) (op (s.withDraws script index))) :
    SameButDraws (whenInitialized op s) (whenInitialized op (s.withDraws script index)) := by
  by_cases hm : s.mode = .uninitialized
  · rw [whenInitialized_of_eq hm, whenInitialized_of_eq (s := s.withDraws script index) hm]
    exact sameButDraws_withDraws _ script index
  · rw [whenInitialized_of_ne hm, whenInitialized_of_ne (s := s.withDraws script index) hm]
    exact h hm

end

/-- Settles O58: an instruction ignores the draws, or it is CHECK or READFLASH, which end in receive frames and keep
what they read in `ACC`, `CHK` and the buffer. -/
theorem drawsChangeOnlyWhatIsReadFromThem : Obligations.DrawsChangeOnlyWhatIsReadFromThem := by
  intro s t t' i script index h h'
  change exec i (s.withDraws script index) = .next t' at h'
  by_cases hc : i = .check
  · subst hc
    obtain rfl := Host.Outcome.next.inj h
    obtain rfl := Host.Outcome.next.inj h'
    exact sameButDraws_whenInitialized s script index fun _ => sameButDraws_runCheck s script index
  by_cases hr : ∃ a c, i = .readflash a c
  · obtain ⟨a, c, rfl⟩ := hr
    obtain rfl := Host.Outcome.next.inj h
    obtain rfl := Host.Outcome.next.inj h'
    exact sameButDraws_whenInitialized s script index fun hm => sameButDraws_runReadflash s script index a c hm
  · have hdraws := exec_withDraws hc (fun a c hi => hr ⟨a, c, hi⟩) h script index
    obtain rfl := Host.Outcome.next.inj (hdraws.symm.trans h')
    exact sameButDraws_withDraws t script index

end Sys2Proof.Machine
end

section
/-! The line levels between operations (10_state.md R38): what the mode alone fixes, and the rows of the table, after
every host command. -/

namespace Sys2Proof.Machine

/-- The outputs are driven and MSEL is low, as in every mode but Uninitialized. -/
def State.Driven (s : State) : Prop := s.oe = true ∧ s.msel = false

theorem State.Driven.runReset {s : State} (h : s.Driven) : (runReset s).Driven := by
  obtain ⟨hoe, hmsel⟩ := h
  rw [runReset_eq]
  cases s.mode with
  | uninitialized => exact ⟨hoe, hmsel⟩
  | modeReset => exact ⟨hoe, hmsel⟩
  | icpMode => exact ⟨hoe, rfl⟩
  | altMode => exact ⟨hoe, rfl⟩

/-! ### The levels each command leaves -/

/-- The lines as they are driven after a command, with the mode. -/
def State.At (s : State) (m : Mode) (clk din : Bool) : Prop :=
  s.mode = m ∧ s.Driven ∧ s.clk = clk ∧ s.din = din

theorem at_runHandshake (s : State) : (runHandshake s).At .modeReset true false := by
  rw [runHandshake_eq]
  exact ⟨rfl, ⟨rfl, rfl⟩, rfl, rfl⟩

/-- RESET from an active mode leaves DIN alone. -/
theorem at_runReset {s : State} (hs : s.Driven) (hm : s.mode ≠ .uninitialized) (hr : s.mode ≠ .modeReset) :
    (runReset s).At .modeReset true s.din := by
  refine ⟨runReset_mode hm, hs.runReset, ?_⟩
  rw [runReset_eq]
  cases h : s.mode with
  | uninitialized => exact absurd h hm
  | modeReset => exact absurd h hr
  | icpMode => exact ⟨rfl, rfl⟩
  | altMode => exact ⟨rfl, rfl⟩

theorem at_enterIcp {s : State} (hs : s.Driven) : (enterMode MODE_ICP s).At .icpMode false false := by
  rw [enterMode_icp_eq]
  exact ⟨rfl, hs, rfl, rfl⟩

theorem at_enterAlt {s : State} (hs : s.Driven) : (enterMode MODE_ALT s).At .altMode false true := by
  rw [enterMode_alt_eq]
  exact ⟨rfl, ⟨hs.1, rfl⟩, rfl, rfl⟩

theorem at_runPing {s : State} (hs : s.Driven) : (runPing s).At s.mode false false := by
  rw [runPing_eq]
  exact ⟨rfl, hs, rfl, rfl⟩

theorem at_runCheck {s : State} (hs : s.Driven) : (runCheck s).At s.mode false false := by
  rw [runCheck_eq]
  exact ⟨rfl, hs, rfl, rfl⟩

theorem at_runReadflash (a : Addr24) (c : Bool) {s : State} (hs : s.Driven) (hm : s.mode ≠ .uninitialized) :
    (runReadflash a c s).At .icpMode false false := by
  obtain ⟨hoe, hmsel⟩ := hs
  rw [runReadflash_eq a c hm]
  exact ⟨rfl, ⟨hoe, by simp [hmsel]⟩, rfl, rfl⟩

/-- What a host command does to the lines from `s` to `t`: it is refused or has no effect, or it leaves the levels of
its own. -/
inductive LineEffect (s t : State) : Instr → Prop where
  | handshake (h : t.At .modeReset true false) : LineEffect s t .handshake
  | refused {i : Instr} {r : RefuseReason} (hr : refusalReason i s.mode = some r) (h : t = refuse r s) :
    LineEffect s t i
  | resetNoop (hm : s.mode = .modeReset) (h : t = s) : LineEffect s t .reset
  | reset (hm : s.mode ≠ .uninitialized) (hr : s.mode ≠ .modeReset) (h : s.Driven → t.At .modeReset true s.din) :
    LineEffect s t .reset
  | switchNoop (hm : s.mode ≠ .uninitialized) (h : t = s) : LineEffect s t (.switchmode s.mode.code)
  | enterIcp (hm : s.mode ≠ .uninitialized) (hc : s.mode ≠ .icpMode) (h : s.Driven → t.At .icpMode false false) :
    LineEffect s t (.switchmode MODE_ICP)
  | enterAlt (hm : s.mode ≠ .uninitialized) (hc : s.mode ≠ .altMode) (h : s.Driven → t.At .altMode false true) :
    LineEffect s t (.switchmode MODE_ALT)
  | probe {i : Instr} (hi : i = .check ∨ i = .ping) (hm : s.mode ≠ .uninitialized)
    (h : s.Driven → t.At s.mode false false) : LineEffect s t i
  | readflash {a : Addr24} {c : Bool} (hm : s.mode ≠ .uninitialized) (h : s.Driven → t.At .icpMode false false) :
    LineEffect s t (.readflash a c)

theorem lineEffect_switchmode (tgt : Byte) (s : State) : LineEffect s (runSwitch tgt s) (.switchmode tgt) := by
  rcases runSwitch_cases tgt s with ⟨hl, h⟩ | ⟨hl, hm, h⟩ | ⟨-, hm, rfl, h⟩ | ⟨rfl, hm, hc, h⟩ | ⟨rfl, hm, hc, h⟩
  · exact .refused (refusalReason_badTarget hl s.mode) h
  · exact .refused ((if_pos hl).trans (if_pos hm)) h
  · exact .switchNoop hm h
  · exact .enterIcp hm (fun hi => hc (congrArg Mode.code hi)) fun hs => h ▸ at_enterIcp hs.runReset
  · exact .enterAlt hm (fun hi => hc (congrArg Mode.code hi)) fun hs => h ▸ at_enterAlt hs.runReset

/-- SWITCHMODE to an illegal target is always refused. -/
theorem legalTarget_of_unrefused {tgt : Byte} {m : Mode} (h : refusalReason (.switchmode tgt) m = none) :
    legalTarget tgt = true := by
  by_contra hl
  cases h.symm.trans (refusalReason_badTarget (Bool.eq_false_iff.mpr hl) m)

/-- Every command but HANDSHAKE is refused while Uninitialized. -/
theorem initialized_of_unrefused {i : Instr} {m : Mode} (hc : i.isCommand = true) (hi : i ≠ .handshake)
    (h : refusalReason i m = none) : m ≠ .uninitialized := by
  rintro rfl
  have ht : ∀ tgt, i = .switchmode tgt → legalTarget tgt = true := by
    rintro tgt rfl
    exact legalTarget_of_unrefused h
  cases h.symm.trans (refusalReason_notInitialized hc hi ht)

theorem lineEffect_exec {i : Instr} {s t : State} (hc : i.isCommand = true) (h : exec i s = .next t) :
    LineEffect s t i := by
  cases hr : refusalReason i s.mode with
  | some r => exact .refused hr (Host.Outcome.next.inj (h.symm.trans (exec_of_refused hr)))
  | none =>
    cases i with
    | handshake =>
      obtain rfl := Host.Outcome.next.inj h
      exact .handshake (at_runHandshake s)
    | reset =>
      obtain rfl := Host.Outcome.next.inj h
      by_cases hm : s.mode = .modeReset
      · exact .resetNoop hm (runReset_of_modeReset hm)
      · have hu := initialized_of_unrefused hc nofun hr
        exact .reset hu hm fun hs => at_runReset hs hu hm
    | switchmode tgt =>
      obtain rfl := Host.Outcome.next.inj h
      exact lineEffect_switchmode tgt s
    | check =>
      have hu := initialized_of_unrefused hc nofun hr
      obtain rfl := Host.Outcome.next.inj ((exec_check_of_ne hu).symm.trans h)
      exact .probe (.inl rfl) hu at_runCheck
    | ping =>
      have hu := initialized_of_unrefused hc nofun hr
      obtain rfl := Host.Outcome.next.inj ((exec_ping_of_ne hu).symm.trans h)
      exact .probe (.inr rfl) hu at_runPing
    | readflash a c =>
      have hu := initialized_of_unrefused hc nofun hr
      obtain rfl := Host.Outcome.next.inj ((exec_readflash_of_ne a c hu).symm.trans h)
      exact .readflash hu fun hs => at_runReadflash a c hs hu
    | _ => cases hc

/-! ### What the mode alone fixes -/

theorem levelsFit_of_at {t : State} {m : Mode} {c d : Bool} (h : t.At m c d) (hm : m ≠ .uninitialized)
    (hicp : m = .icpMode → c = false ∧ d = false) (halt : m = .altMode → c = false) : LevelsFit t := by
  obtain ⟨rfl, hdriven, rfl, rfl⟩ := h
  exact ⟨fun hu => absurd hu hm, fun _ => hdriven, hicp, halt⟩

theorem levelsFit_exec {i : Instr} {s t : State} (hc : i.isCommand = true) (h : exec i s = .next t)
    (hs : LevelsFit s) : LevelsFit t := by
  cases lineEffect_exec hc h with
  | handshake ht => exact levelsFit_of_at ht nofun nofun nofun
  | refused hr ht => exact ht ▸ ⟨hs.undriven, hs.driven, hs.icp, hs.alt⟩
  | resetNoop hm ht => exact ht ▸ hs
  | reset hm hr ht => exact levelsFit_of_at (ht (hs.driven hm)) nofun nofun nofun
  | switchNoop hm ht => exact ht ▸ hs
  | enterIcp hm hne ht => exact levelsFit_of_at (ht (hs.driven hm)) nofun (fun _ => ⟨rfl, rfl⟩) nofun
  | enterAlt hm hne ht => exact levelsFit_of_at (ht (hs.driven hm)) nofun nofun fun _ => rfl
  | probe hi hm ht => exact levelsFit_of_at (ht (hs.driven hm)) hm (fun _ => ⟨rfl, rfl⟩) fun _ => rfl
  | readflash hm ht => exact levelsFit_of_at (ht (hs.driven hm)) nofun (fun _ => ⟨rfl, rfl⟩) nofun

/-! ### The rows of the table -/

theorem LevelRow.fits_iff_at {r : LevelRow} {m : Mode} {c d : Bool} (hl : r.levels = (m, some (c, d))) (s : State) :
    r.fits s ↔ m ≠ .uninitialized ∧ s.At m c d := by
  rw [fits_of_levels hl]
  constructor
  · rintro ⟨hm, hne, hoe, hclk, hdin, hmsel⟩
    exact ⟨hne, hm, ⟨hoe, hmsel⟩, hclk, hdin⟩
  · rintro ⟨hne, hm, ⟨hoe, hmsel⟩, hclk, hdin⟩
    exact ⟨hm, hne, hoe, hclk, hdin, hmsel⟩

/-- RESET in ModeReset leaves the row. -/
theorem LevelRow.after_reset_of_modeReset {r : LevelRow} (h : r.levels.1 = .modeReset) : r.after .reset = r := by
  cases r with
  | undriven => cases h
  | icp => cases h
  | altEntered => cases h
  | resetByHandshake => rfl
  | resetByReset d => rfl
  | probed m => exact if_pos h

/-- RESET from an active mode leaves DIN as the row has it. -/
theorem LevelRow.after_reset {r : LevelRow} {m : Mode} {c d : Bool} (hl : r.levels = (m, some (c, d)))
    (hm : m ≠ .modeReset) : r.after .reset = .resetByReset d := by
  cases r with
  | undriven => cases hl
  | icp => cases hl; rfl
  | altEntered => cases hl; rfl
  | resetByHandshake => cases hl; exact absurd rfl hm
  | resetByReset d => cases hl; exact absurd rfl hm
  | probed m => cases hl; exact if_neg hm

/-- SWITCHMODE to a target that is illegal or already reached leaves the row. -/
theorem LevelRow.after_switchmode_noop {r : LevelRow} (hr : r ≠ .undriven) {tgt : Byte}
    (h : legalTarget tgt = false ∨ r.levels.1.code = tgt) : r.after (.switchmode tgt) = r := by
  rw [after_switchmode hr, if_neg, if_neg]
  · rintro ⟨rfl, hne⟩
    exact h.elim (fun hl => absurd hl (by decide)) (code_ne_alt hne)
  · rintro ⟨rfl, hne⟩
    exact h.elim (fun hl => absurd hl (by decide)) (code_ne_icp hne)

/-- An initialised engine refuses SWITCHMODE to an illegal target, and nothing else. -/
theorem eq_switchmode_of_refused {i : Instr} {m : Mode} {r : RefuseReason} (h : refusalReason i m = some r)
    (hm : m ≠ .uninitialized) : ∃ tgt, i = .switchmode tgt ∧ legalTarget tgt = false := by
  by_contra hne
  have hnone : refusalReason i m = none := refusalReason_eq_none (.inr hm) fun tgt hi => by
    by_contra hl
    exact hne ⟨tgt, hi, Bool.eq_false_iff.mpr hl⟩
  cases hnone.symm.trans h

/-- From the first row: HANDSHAKE leaves it, every other command is refused. -/
theorem fits_after_undriven {i : Instr} {s t : State} (he : LineEffect s t i) (hs : LevelRow.undriven.fits s) :
    (LevelRow.undriven.after i).fits t := by
  have hm : s.mode = .uninitialized := hs.1
  cases he with
  | handshake ht => exact (LevelRow.fits_iff_at (r := .resetByHandshake) rfl t).mpr ⟨nofun, ht⟩
  | refused hr ht =>
    have hi : i ≠ .handshake := by rintro rfl; cases hr
    rw [LevelRow.after_undriven hi, ht]
    exact hs
  | resetNoop hm' _ => cases hm.symm.trans hm'
  | reset hne _ _ => exact absurd hm hne
  | switchNoop hne _ => exact absurd hm hne
  | enterIcp hne _ _ => exact absurd hm hne
  | enterAlt hne _ _ => exact absurd hm hne
  | probe _ hne _ => exact absurd hm hne
  | readflash hne _ => exact absurd hm hne

theorem fits_after_driven {i : Instr} {s t : State} (he : LineEffect s t i) {r : LevelRow} (hr : r ≠ .undriven)
    (hs : r.fits s) : (r.after i).fits t := by
  obtain ⟨m, c, d, hl⟩ := LevelRow.levels_of_ne hr
  have hm1 : r.levels.1 = m := congrArg Prod.fst hl
  obtain ⟨hne, hat⟩ := (LevelRow.fits_iff_at hl s).mp hs
  obtain ⟨hm, hdriven, -, hdin⟩ := hat
  cases he with
  | handshake ht =>
    rw [LevelRow.after_handshake]
    exact (LevelRow.fits_iff_at rfl t).mpr ⟨nofun, ht⟩
  | refused href ht =>
    obtain ⟨tgt, rfl, hill⟩ := eq_switchmode_of_refused href (hm ▸ hne)
    rw [LevelRow.after_switchmode_noop hr (.inl hill), ht]
    exact hs
  | resetNoop hmr ht =>
    rw [LevelRow.after_reset_of_modeReset (hm1.trans (hm.symm.trans hmr)), ht]
    exact hs
  | reset _ hmr ht =>
    rw [LevelRow.after_reset hl (hm ▸ hmr)]
    exact (LevelRow.fits_iff_at rfl t).mpr ⟨nofun, hdin ▸ ht hdriven⟩
  | switchNoop _ ht =>
    rw [LevelRow.after_switchmode_noop hr (.inr (by rw [hm1, hm])), ht]
    exact hs
  | enterIcp _ hc ht =>
    have hicp : r.after (.switchmode MODE_ICP) = .icp := by
      rw [LevelRow.after_switchmode hr, hm1, ← hm]
      exact if_pos ⟨rfl, hc⟩
    rw [hicp]
    exact (LevelRow.fits_iff_at rfl t).mpr ⟨nofun, ht hdriven⟩
  | enterAlt _ hc ht =>
    have halt : r.after (.switchmode MODE_ALT) = .altEntered := by
      rw [LevelRow.after_switchmode hr, hm1, ← hm]
      exact (if_neg fun h => absurd h.1 (by decide)).trans (if_pos ⟨rfl, hc⟩)
    rw [halt]
    exact (LevelRow.fits_iff_at rfl t).mpr ⟨nofun, ht hdriven⟩
  | probe hi hu ht =>
    have hprobed : r.after i = .probed s.mode := by
      rw [hm, ← hm1]
      rcases hi with rfl | rfl
      · exact LevelRow.after_check hr
      · exact LevelRow.after_ping hr
    rw [hprobed]
    exact (LevelRow.fits_iff_at rfl t).mpr ⟨hu, ht hdriven⟩
  | readflash _ ht =>
    rw [LevelRow.after_readflash hr]
    exact (LevelRow.fits_iff_at rfl t).mpr ⟨nofun, ht hdriven⟩

/-- Settles O59: by the effect of the command on the lines, for the levels of the mode and for each row. -/
theorem lineLevelsFitAfterEveryCommand : Obligations.LineLevelsFitAfterEveryCommand := by
  intro s t i hc h
  refine ⟨levelsFit_exec hc h, fun r hs => ?_⟩
  by_cases hr : r = .undriven
  · subst hr
    exact fits_after_undriven (lineEffect_exec hc h) hs
  · exact fits_after_driven (lineEffect_exec hc h) hr hs

/-- Settles O60. -/
theorem lineLevelsFitAtReset : Obligations.LineLevelsFitAtReset :=
  ⟨⟨fun _ => rfl, fun h => absurd rfl h, nofun, nofun⟩, rfl, rfl⟩

end Sys2Proof.Machine
end

section
/-! Commands at the port of an idle engine, in both forms of the write (30_encoding.md R72, R74; 60_exceptions.md), and
the grains of a step: single actions, byte frames, the instruction run whole (10_state.md R23). -/

namespace Sys2Proof.Machine

/-! ### A command word at the port -/

theorem callCommand_of_ok {w : Word} {i : Instr} (h : decode (.command w) = .ok i) (s : State) :
    callCommand w s = exec i (acceptOperands i w s) := by
  rw [callCommand, h]

theorem callCommand_of_error {w : Word} {e : DecodeError} (h : decode (.command w) = .error e) (s : State) :
    callCommand w s = .next (refuse .reservedOp s) := by
  rw [callCommand, h]

theorem acceptCommand_of_ok {w : Word} {i : Instr} (h : decode (.command w) = .ok i) (s : State) :
    acceptCommand w s = startOperation i (acceptOperands i w s) := by
  rw [acceptCommand, h]

theorem acceptCommand_of_error {w : Word} {e : DecodeError} (h : decode (.command w) = .error e) (s : State) :
    acceptCommand w s = refuse .reservedOp s := by
  rw [acceptCommand, h]

/-- A command that is not refused runs with its operands latched. -/
theorem callCommand_of_none {w : Word} {i : Instr} {s : State} (h : decode (.command w) = .ok i)
    (hr : refusalReason i s.mode = none) : callCommand w s = exec i (latchOperands w s) := by
  rw [callCommand_of_ok h, acceptOperands_of_none hr]

theorem callCommand_of_some {w : Word} {i : Instr} {s : State} {r : RefuseReason} (h : decode (.command w) = .ok i)
    (hr : refusalReason i s.mode = some r) : callCommand w s = .next (refuse r s) := by
  rw [callCommand_of_ok h, acceptOperands_of_some hr, exec_of_refused hr]

theorem acceptCommand_of_none {w : Word} {i : Instr} {s : State} (h : decode (.command w) = .ok i)
    (hr : refusalReason i s.mode = none) :
    acceptCommand w s = { latchOperands w s with busy := true, seq := [Item.start i] } := by
  rw [acceptCommand_of_ok h, acceptOperands_of_none hr, startOperation_of_none (s := latchOperands w s) hr]

theorem acceptCommand_of_some {w : Word} {i : Instr} {s : State} {r : RefuseReason} (h : decode (.command w) = .ok i)
    (hr : refusalReason i s.mode = some r) : acceptCommand w s = { s with busy := true, seq := [.refuse r] } := by
  rw [acceptCommand_of_ok h, acceptOperands_of_some hr, startOperation_of_some hr]

/-- The targets the statements name are the legal ones. -/
theorem legalTarget_of_operand {i : Instr} (h : ∀ tgt, i = .switchmode tgt → tgt = 0x96 ∨ tgt = 0xA5) :
    ∀ tgt, i = .switchmode tgt → legalTarget tgt = true := fun tgt hi => legalTarget_iff.mpr (h tgt hi)

/-- Settles O6: the operands are latched and the instruction runs, unless it is refused. -/
theorem callStepRunsTheDecodedCommand : Obligations.CallStepRunsTheDecodedCommand := by
  intro s w rest i hb hin hd
  rw [step_call hb hin]
  refine ⟨fun hm ht => ?_, fun tgt hi hicp halt => ?_, fun hm hi ht => ?_⟩
  · exact callCommand_of_none hd (refusalReason_eq_none hm (legalTarget_of_operand ht))
  · subst hi
    exact callCommand_of_some hd (refusalReason_badTarget (legalTarget_eq_false hicp halt) s.mode)
  · refine callCommand_of_some hd ?_
    rw [hm]
    exact refusalReason_notInitialized (isCommand_of_decode_command hd) hi (legalTarget_of_operand ht)

/-- Settles O8: a word that does not decode is refused in both forms of the write. -/
theorem reservedOpSetsErrAndNothingElse : Obligations.ReservedOpSetsErrAndNothingElse := by
  intro s w rest hb hin hop
  have hd := decode_reservedOp (w := w) hop
  rcases hin with hin | hin
  · rw [step_call hb hin, callCommand_of_error hd]
    rfl
  · rw [step_write_cmd hb hin, acceptCommand_of_error hd]
    rfl

/-- What the acceptance of a refused command does: one action later the command is over. -/
theorem accept_refused {s : State} {w : Word} {rest : List Input} {i : Instr} {r : RefuseReason}
    (hb : s.busy = false) (hin : s.inputs = .write 0 w :: rest) (hd : decode (.command w) = .ok i)
    (hr : refusalReason i s.mode = some r) :
    ∃ t, step s = .next t ∧ t.seq ≠ [] ∧ t = { s with inputs := rest, busy := true, seq := t.seq } ∧
      advance t = { s with inputs := rest, seq := [], err := true, refusal := some r } := by
  refine ⟨_, step_write_cmd hb hin, ?_⟩
  rw [acceptCommand_of_some (s := { s with inputs := rest }) hd hr]
  exact ⟨List.cons_ne_nil _ _, rfl, advance_refuse (s := { s with inputs := rest }) hb r⟩

/-- Settles O10: the latches and the start of the operation, or the refusal as the one action left. -/
theorem acceptanceLatchesTheOperandsAndRaisesBusy : Obligations.AcceptanceLatchesTheOperandsAndRaisesBusy := by
  intro s w rest i hb hin hd
  refine ⟨fun hm ht => ?_, fun tgt hi hicp halt => ?_, fun hm hi ht => ?_⟩
  · rw [step_write_cmd hb hin]
    exact congrArg _ (acceptCommand_of_none (s := { s with inputs := rest }) hd
      (refusalReason_eq_none hm (legalTarget_of_operand ht)))
  · subst hi
    exact accept_refused hb hin hd (refusalReason_badTarget (legalTarget_eq_false hicp halt) s.mode)
  · refine accept_refused hb hin hd ?_
    rw [hm]
    exact refusalReason_notInitialized (isCommand_of_decode_command hd) hi (legalTarget_of_operand ht)

/-! ### A busy engine -/

/-- A busy engine leaves a command write at the port. -/
theorem step_waiting {s : State} {w : Word} {rest : List Input} (hb : s.busy = true)
    (h : s.inputs = .call w :: rest ∨ s.inputs = .write 0 w :: rest) : step s = .next (advance s) := by
  rw [step_of_busy hb, busyStep]
  rcases h with h | h
  · rw [h]
  · rw [h]
    exact if_pos rfl

/-- Settles O9: no action looks at the port. -/
theorem commandWriteWaitsAtThePortWhileBusy : Obligations.CommandWriteWaitsAtThePortWhileBusy := by
  intro s hb
  refine ⟨step_quiet hb, fun rest => step_tick hb, fun w rest h => ⟨_, step_quiet hb rfl, ?_⟩⟩
  rw [step_waiting hb h, ← advance_inputs]

theorem step_frame {s : State} {rest : List Input} (hb : s.busy = true) (h : s.inputs = .frame :: rest) :
    step s = frameStep { s with inputs := rest } := by
  rw [step_of_busy hb, busyStep, h]

theorem frameStep_wire {s : State} {b : Byte} {left : List Item} {i : Instr} (hs : s.seq = .wire b :: left)
    (hd : decode (.wire b) = .ok i) : frameStep s = settleOutcome (exec i { s with seq := left }) := by
  simp only [frameStep, hs, hd]

theorem frameStep_data {s : State} {v : Byte} {left : List Item} (hs : s.seq = .data v :: left) :
    frameStep s = .next (settle (sendByteMSBFirst v { s with seq := left })) := by
  simp only [frameStep, hs]

theorem frameStep_receive {s : State} {left : List Item} (hs : s.seq = .receive :: left) :
    frameStep s = .next (settle (receiveByte { s with seq := left })) := by
  simp only [frameStep, hs]

/-- Where no frame stands at the head of the sequencer, a frame step is one action. -/
theorem frameStep_of_no_frame {s : State} (hw : ∀ b i, s.seq.head? = some (.wire b) → decode (.wire b) ≠ .ok i)
    (hv : ∀ v, s.seq.head? ≠ some (.data v)) (hr : s.seq.head? ≠ some .receive) :
    frameStep s = .next (advance s) := by
  unfold frameStep
  cases hs : s.seq with
  | nil => rfl
  | cons it left =>
    rw [hs] at hw hv hr
    cases it with
    | wire b =>
      cases hd : decode (.wire b) with
      | ok i => exact absurd hd (hw b i rfl)
      | error e => simp only [hd]
    | data v => exact absurd rfl (hv v)
    | receive => exact absurd rfl hr
    | _ => rfl

/-- Settles O7: by what stands at the head of the sequencer. -/
theorem frameStepRunsTheDecodedWireValue : Obligations.FrameStepRunsTheDecodedWireValue := by
  intro s rest hb hin
  rw [step_frame hb hin]
  refine ⟨fun b left i hs hd => ?_, fun v left hs => ⟨_, rfl, frameStep_data (s := { s with inputs := rest }) hs⟩,
    fun left hs => ⟨_, rfl, frameStep_receive (s := { s with inputs := rest }) hs⟩,
    frameStep_of_no_frame (s := { s with inputs := rest })⟩
  obtain ⟨t, ht⟩ := exec_next i { s with inputs := rest, seq := left }
  refine ⟨t, ht, ?_⟩
  rw [frameStep_wire (s := { s with inputs := rest }) hs hd, ht]
  rfl

/-! ### From the acceptance to the result -/

/-- A command body behind its guard, where the guard holds. -/
theorem does_guarded {it : Item} {body : List Item} {s t : State} (hm : s.mode ≠ .uninitialized)
    (hit : ∀ rest, perform it (s.running rest) = guarded body (s.running rest)) (hb : body ≠ [])
    (h : Does body s t) : Does [it] s t :=
  .call hb (fun rest => (hit rest).trans (if_neg hm)) h

theorem perform_opSwitch_running {s : State} (h : legalTarget s.tgt = true) (rest : List Item) :
    perform .opSwitch (s.running rest) = guarded [.callSwitch s.tgt] (s.running rest) := if_pos h

/-- The operands of a decoded command are the fields of its word. -/
theorem operands_of_decode {w : Word} {i : Instr} (h : decode (.command w) = .ok i) :
    (∀ tgt, i = .switchmode tgt → fieldTgt w = tgt) ∧
      ∀ a c, i = .readflash a c → fieldAddr w = a ∧ fieldCb w = c := by
  rcases decode_command_cases h with ⟨-, rfl⟩ | ⟨-, rfl⟩ | ⟨-, rfl⟩ | ⟨-, rfl⟩ | ⟨-, rfl⟩ | ⟨-, rfl⟩
  · exact ⟨nofun, nofun⟩
  · exact ⟨nofun, nofun⟩
  · exact ⟨fun _ hi => Instr.switchmode.inj hi, nofun⟩
  · exact ⟨nofun, nofun⟩
  · exact ⟨nofun, nofun⟩
  · exact ⟨nofun, fun _ _ hi => Instr.readflash.inj hi⟩

/-- The first action of a command that is not refused does the whole of it, on the latched operands. -/
theorem does_start {i : Instr} {s t : State} (hc : i.isCommand = true) (hr : refusalReason i s.mode = none)
    (htgt : ∀ tgt, i = .switchmode tgt → s.tgt = tgt)
    (haddr : ∀ a c, i = .readflash a c → s.addr = a ∧ s.cb = c) (h : exec i s = .next t) :
    Does [Item.start i] s t := by
  cases i with
  | handshake =>
    obtain rfl := Host.Outcome.next.inj h
    exact .call (body := handshakeItems) (List.cons_ne_nil _ _) (fun _ => rfl) (does_handshake s)
  | reset =>
    have hm := initialized_of_unrefused hc nofun hr
    obtain rfl := Host.Outcome.next.inj h
    exact does_guarded hm (fun _ => rfl) (List.cons_ne_nil _ _) (does_callReset hm)
  | switchmode tgt =>
    obtain rfl := htgt tgt rfl
    have ht := legalTarget_of_unrefused hr
    have hm := initialized_of_unrefused hc nofun hr
    rw [exec_switchmode, runSwitch_of_legal ht hm] at h
    obtain rfl := Host.Outcome.next.inj h
    exact does_guarded hm (perform_opSwitch_running ht) (List.cons_ne_nil _ _) (does_callSwitch ht hm)
  | check =>
    have hm := initialized_of_unrefused hc nofun hr
    obtain rfl := Host.Outcome.next.inj ((exec_check_of_ne hm).symm.trans h)
    exact does_guarded hm (fun _ => rfl) (List.cons_ne_nil _ _) (does_check s)
  | ping =>
    have hm := initialized_of_unrefused hc nofun hr
    obtain rfl := Host.Outcome.next.inj ((exec_ping_of_ne hm).symm.trans h)
    exact does_guarded hm (fun _ => rfl) (List.cons_ne_nil _ _) (does_callPing s)
  | readflash a c =>
    obtain ⟨rfl, rfl⟩ := haddr a c rfl
    have hm := initialized_of_unrefused hc nofun hr
    obtain rfl := Host.Outcome.next.inj ((exec_readflash_of_ne _ _ hm).symm.trans h)
    exact does_guarded hm (fun _ => rfl) (List.cons_ne_nil _ _) (does_readflash hm)
  | _ => cases hc

theorem settle_running_nil {s : State} (h : s.Idle) : settle (s.running []) = s := by
  obtain ⟨hb, hs⟩ := h
  cases s
  cases hb
  cases hs
  rfl

/-- An instruction leaves an idle engine idle. -/
theorem idle_exec {i : Instr} {s t : State} (h : exec i s = .next t) (hs : s.Idle) : t.Idle := by
  obtain ⟨hb, hseq⟩ := hs
  rw [exec_frame h]
  exact ⟨hb, hseq⟩

/-- From the acceptance of a command word the sequencer runs to the result of the call. -/
theorem reaches_callCommand {s t : State} {w : Word} (hs : s.Idle) (h : callCommand w s = .next t) :
    Reaches (acceptCommand w s) t := by
  cases hd : decode (.command w) with
  | error e =>
    rw [callCommand_of_error hd] at h
    rw [acceptCommand_of_error hd, Host.Outcome.next.inj h]
    exact .refl t
  | ok i =>
    cases hr : refusalReason i s.mode with
    | some r =>
      rw [callCommand_of_some hd hr] at h
      obtain rfl := Host.Outcome.next.inj h
      obtain ⟨hb, hseq⟩ := hs
      rw [acceptCommand_of_some hd hr]
      refine .step rfl ?_
      rw [advance_refuse hb, ← hseq]
      exact .refl _
    | none =>
      rw [callCommand_of_none hd hr] at h
      rw [acceptCommand_of_none hd hr]
      have hdoes : Does [Item.start i] (latchOperands w s) t := by
        obtain ⟨htgt, haddr⟩ := operands_of_decode hd
        exact does_start (isCommand_of_decode_command hd) hr htgt haddr h
      have hreach := hdoes []
      rw [settle_running_nil (idle_exec h hs)] at hreach
      exact hreach

/-- A frame step is a whole number of actions, one at least, with the engine busy before each. -/
theorem frameStep_eq_advanceN {s : State} (hb : s.busy = true) :
    ∃ n, frameStep s = .next (advanceN (n + 1) s) ∧ ∀ k, k ≤ n → (advanceN k s).busy = true := by
  by_cases hframe : (∃ b i, s.seq.head? = some (.wire b) ∧ decode (.wire b) = .ok i) ∨
      (∃ v, s.seq.head? = some (.data v)) ∨ s.seq.head? = some .receive
  · rcases hframe with ⟨b, i, hh, hd⟩ | ⟨v, hh⟩ | hh <;> obtain ⟨left, hs⟩ := List.head?_eq_some_iff.mp hh
    · have hexec := exec_of_decode_wire hd { s with seq := left }
      have hframe := exec_frame hexec
      obtain ⟨n, hn, hbusy⟩ := (does_wire b { s with seq := left }).frame hb hs
        ((congrArg State.busy hframe).trans hb) (congrArg State.seq hframe)
      exact ⟨n, by rw [frameStep_wire hs hd, hexec, ← hn]; rfl, hbusy⟩
    · obtain ⟨n, hn, hbusy⟩ := (does_data v { s with seq := left }).frame hb hs
        (by rw [sendByteMSBFirst_eq]; exact hb) (by rw [sendByteMSBFirst_eq])
      exact ⟨n, by rw [frameStep_data hs, hn], hbusy⟩
    · obtain ⟨n, hn, hbusy⟩ := (does_receive { s with seq := left }).frame hb hs
        (by rw [receiveByte_eq]; exact hb) (by rw [receiveByte_eq])
      exact ⟨n, by rw [frameStep_receive hs, hn], hbusy⟩
  · refine ⟨0, frameStep_of_no_frame (fun b i hh hd => hframe (.inl ⟨b, i, hh, hd⟩))
      (fun v hh => hframe (.inr (.inl ⟨v, hh⟩))) (fun hh => hframe (.inr (.inr hh))), fun k hk => ?_⟩
    obtain rfl : k = 0 := by omega
    exact hb

/-- Settles O11: the sequencer comes from the acceptance to the result of the call, and a frame step is a run of its
actions. -/
theorem sequencerRunsToTheResultOfTheInstruction : Obligations.SequencerRunsToTheResultOfTheInstruction := by
  refine ⟨fun s w rest hs => ?_, fun s rest hb hin => ?_⟩
  · obtain ⟨t, ht⟩ := callCommand_next w { s with inputs := rest }
    obtain ⟨n, hn, hbusy⟩ := reaches_callCommand (s := { s with inputs := rest }) hs ht
    exact ⟨n, t, _, (step_call (s := { s with inputs := .call w :: rest }) hs.1 rfl).trans ht,
      step_write_cmd (s := { s with inputs := .write 0 w :: rest }) hs.1 rfl, hn, hbusy⟩
  · obtain ⟨n, hn, hbusy⟩ := frameStep_eq_advanceN (s := { s with inputs := rest }) hb
    exact ⟨n, by rw [step_frame hb hin, hn], hbusy⟩

/-- Settles O36: RESET does nothing in ModeReset, and the sequencer ends where the call does. -/
theorem resetInModeResetDoesNothing : Obligations.ResetInModeResetDoesNothing := by
  have hnoop : ∀ s : State, s.mode = .modeReset → exec .reset s = .next s := fun s hm => by
    rw [exec_reset, runReset_of_modeReset hm]
  refine ⟨hnoop, fun s w rest hs hm hin hd => ?_, fun s t hm h => ?_⟩
  · have hr : refusalReason .reset s.mode = none := refusalReason_eq_none (.inr (by simp [hm])) nofun
    have hcall : callCommand w { s with inputs := rest } = .next (latchOperands w { s with inputs := rest }) :=
      (callCommand_of_none (s := { s with inputs := rest }) hd hr).trans
        (hnoop (latchOperands w { s with inputs := rest }) hm)
    obtain ⟨n, hn, -⟩ := reaches_callCommand (s := { s with inputs := rest }) hs hcall
    have haccept := acceptCommand_of_none (s := { s with inputs := rest }) hd hr
    exact ⟨_, step_write_cmd hs.1 hin, congrArg State.busy haccept, n, hn⟩
  · obtain rfl := Host.Outcome.next.inj h
    exact hnoop _ (runReset_mode hm)

end Sys2Proof.Machine
end

section
/-! What every step keeps: the trace, `ERR` and the configuration (10_state.md R35, 60_exceptions.md R182). A step is
a run of the sequencer's actions, an answer of the port, a command or a hardware reset. -/

namespace Sys2Proof.Machine

/-! ### The ways of a step -/

theorem advanceN_inputs (n : Nat) (s : State) (l : List Input) :
    advanceN n { s with inputs := l } = { advanceN n s with inputs := l } := by
  induction n generalizing s with
  | zero => rfl
  | succ n ih => exact (congrArg (advanceN n) (advance_inputs s l)).trans (ih (advance s))

/-- What a step from `s` to `t` does. -/
inductive StepEffect (s t : State) : Prop where
  /-- A busy engine performs actions of the sequencer. -/
  | actions (n : Nat) (l : List Input) (h : t = { advanceN n s with inputs := l })
  /-- The port takes an input and leaves the engine alone. -/
  | port (l : List Input) (d : Word) (f : Nat) (h : t = { s with inputs := l, readData := d, freeReads := f })
  /-- An idle engine runs a command whole. -/
  | call (w : Word) (l : List Input) (hb : s.busy = false) (h : callCommand w { s with inputs := l } = .next t)
  /-- An idle engine accepts a command. -/
  | accept (w : Word) (l : List Input) (hb : s.busy = false) (h : t = acceptCommand w { s with inputs := l })
  /-- Hardware reset. -/
  | reset (l : List Input) (hin : s.inputs.head? = some .hardReset) (h : t = hardReset { s with inputs := l })

theorem stepEffect_portRead {s t : State} {n : Nat} {l : List Input} (h : portRead n { s with inputs := l } = .next t) :
    StepEffect s t := by
  by_cases hn : n < 32
  · rw [portRead_of_lt hn] at h
    exact .port l _ _ (Host.Outcome.next.inj h).symm
  · rw [portRead_of_ge (Nat.not_lt.mp hn)] at h
    cases h

theorem stepEffect_portWrite {s t : State} {n : Nat} {l : List Input}
    (h : portWrite n { s with inputs := l } = .next t) : StepEffect s t := by
  by_cases hn : n < 32
  · rw [portWrite_of_lt hn] at h
    exact .port l s.readData s.freeReads (Host.Outcome.next.inj h).symm
  · rw [portWrite_of_ge (Nat.not_lt.mp hn)] at h
    cases h

theorem stepEffect_advance {s t : State} {l : List Input} (h : t = advance { s with inputs := l }) :
    StepEffect s t :=
  .actions 1 l (h.trans (advance_inputs s l))

/-- What the next input makes of a step. -/
theorem stepEffect_of_step {s t : State} (h : step s = .next t) : StepEffect s t := by
  cases hin : s.inputs with
  | nil =>
    cases hb : s.busy with
    | true =>
      obtain rfl := Host.Outcome.next.inj ((step_quiet hb hin).symm.trans h)
      exact .actions 1 (advance s).inputs rfl
    | false =>
      obtain rfl := Host.Outcome.next.inj ((idleEngineChangesNothing s hb hin).symm.trans h)
      exact .port s.inputs s.readData s.freeReads rfl
  | cons x rest =>
    cases x with
    | read n => exact stepEffect_portRead ((step_read hin).symm.trans h)
    | hardReset =>
      exact .reset rest (by rw [hin]; rfl) (Host.Outcome.next.inj ((step_hardReset hin).symm.trans h)).symm
    | call w =>
      cases hb : s.busy with
      | true =>
        obtain rfl := Host.Outcome.next.inj ((step_waiting hb (.inl hin)).symm.trans h)
        exact .actions 1 (advance s).inputs rfl
      | false => exact .call w rest hb ((step_call hb hin).symm.trans h)
    | write n w =>
      by_cases hn : n = regCmd
      · subst hn
        cases hb : s.busy with
        | true =>
          obtain rfl := Host.Outcome.next.inj ((step_waiting hb (.inr hin)).symm.trans h)
          exact .actions 1 (advance s).inputs rfl
        | false => exact .accept w rest hb (Host.Outcome.next.inj ((step_write_cmd hb hin).symm.trans h)).symm
      · exact stepEffect_portWrite ((step_write hn hin).symm.trans h)
    | tick =>
      cases hb : s.busy with
      | true => exact stepEffect_advance (Host.Outcome.next.inj ((step_tick hb hin).symm.trans h)).symm
      | false =>
        rw [step_of_idle hb, idleStep, hin] at h
        exact .port rest s.readData s.freeReads (Host.Outcome.next.inj h).symm
    | frame =>
      cases hb : s.busy with
      | true =>
        obtain ⟨n, hn, -⟩ := frameStep_eq_advanceN (s := { s with inputs := rest }) hb
        rw [step_frame hb hin, hn] at h
        exact .actions (n + 1) rest ((Host.Outcome.next.inj h).symm.trans (advanceN_inputs (n + 1) s rest))
      | false =>
        rw [step_of_idle hb, idleStep, hin] at h
        exact .port rest s.readData s.freeReads (Host.Outcome.next.inj h).symm

/-! ### The trace, `ERR` and the configuration -/

/-- The trace of `s` is kept in `t`, `ERR` is not cleared and the configuration is the same. -/
structure Keeps (s t : State) : Prop where
  trace : ∃ es, t.trace = s.trace ++ es
  err : s.err = true → t.err = true
  cfg : t.cfg = s.cfg

theorem Keeps.refl (s : State) : Keeps s s := ⟨⟨[], (List.append_nil _).symm⟩, id, rfl⟩

theorem Keeps.trans {s t u : State} (h : Keeps s t) (h' : Keeps t u) : Keeps s u := by
  obtain ⟨⟨es, hes⟩, herr, hcfg⟩ := h
  obtain ⟨⟨fs, hfs⟩, herr', hcfg'⟩ := h'
  exact ⟨⟨es ++ fs, by rw [hfs, hes, List.append_assoc]⟩, herr' ∘ herr, hcfg'.trans hcfg⟩

/-! ### One action -/

/-- What every action does to the registers the invariant speaks of: the configuration stays, `ERR` and the mark change
by a refusal only, the buffer keeps its canonical form and driven outputs stay driven. -/
structure ActionKeeps (s t : State) : Prop where
  cfg : t.cfg = s.cfg
  mark : (t.err = s.err ∧ t.refusal = s.refusal) ∨ ∃ r, t.err = true ∧ t.refusal = some r
  rbuf : s.rbuf.wf = true → t.rbuf.wf = true
  oe : s.oe = true → t.oe = true

/-- An action that writes none of them. -/
theorem ActionKeeps.same {s t : State} (hc : t.cfg = s.cfg) (he : t.err = s.err) (hr : t.refusal = s.refusal)
    (hm : t.rbuf = s.rbuf) (ho : t.oe = s.oe) : ActionKeeps s t :=
  ⟨hc, .inl ⟨he, hr⟩, fun h => hm ▸ h, fun h => ho ▸ h⟩

theorem ActionKeeps.ite {c : Prop} [Decidable c] {s t u : State} (ht : ActionKeeps s t) (hu : ActionKeeps s u) :
    ActionKeeps s (if c then t else u) := by
  split
  · exact ht
  · exact hu

theorem actionKeeps_abandon (r : RefuseReason) (s : State) : ActionKeeps s (abandon r s) :=
  ⟨rfl, .inr ⟨r, rfl, rfl⟩, id, id⟩

theorem actionKeeps_guarded (body : List Item) (s : State) : ActionKeeps s (guarded body s) :=
  .ite (actionKeeps_abandon _ s) (.same rfl rfl rfl rfl rfl)

theorem actionKeeps_cfg (s : State) : ActionKeeps s (cfgLines s) := by
  unfold cfgLines
  split
  · exact .same rfl rfl rfl rfl rfl
  · exact ⟨rfl, .inl ⟨rfl, rfl⟩, id, fun _ => rfl⟩

theorem actionKeeps_drive (e : Event) (l : Line) (b : Bool) (s : State) : ActionKeeps s (emit e (setLatch l b s)) :=
  .same (by simp) (by simp) (by simp) (by simp) (by simp)

theorem actionKeeps_storeByte (s : State) : ActionKeeps s (perform .storeByte s) := by
  have hwf : s.rbuf.wf = true → (s.rbuf.write s.byten.toNat s.acc).wf = true := fun h =>
    memory_write_wf h s.byten.isLt _
  exact .ite ⟨rfl, .inl ⟨rfl, rfl⟩, hwf, id⟩ ⟨rfl, .inl ⟨rfl, rfl⟩, hwf, id⟩

theorem actionKeeps_perform (it : Item) (s : State) : ActionKeeps s (perform it s) := by
  cases it with
  | cfg => exact actionKeeps_cfg s
  | set l => exact actionKeeps_drive (.set l) l true s
  | clr l => exact actionKeeps_drive (.clr l) l false s
  | storeByte => exact actionKeeps_storeByte s
  | opReset => exact actionKeeps_guarded _ s
  | opCheck => exact actionKeeps_guarded _ s
  | opPing => exact actionKeeps_guarded _ s
  | opReadflash => exact actionKeeps_guarded _ s
  | opSwitch => exact .ite (actionKeeps_guarded _ s) (actionKeeps_abandon _ s)
  | refuse r => exact actionKeeps_abandon r s
  | txNext v => exact .ite (.same rfl rfl rfl rfl rfl) (.same rfl rfl rfl rfl rfl)
  | rxNext => exact .ite (.same rfl rfl rfl rfl rfl) (.same rfl rfl rfl rfl rfl)
  | lowTrain l a b => exact .ite (.same rfl rfl rfl rfl rfl) (.same rfl rfl rfl rfl rfl)
  | pulseTrain => exact .ite (.same rfl rfl rfl rfl rfl) (.same rfl rfl rfl rfl rfl)
  | _ => exact .same rfl rfl rfl rfl rfl

theorem keeps_perform (it : Item) (s : State) : Keeps s (perform it s) := by
  obtain ⟨es, hes, -⟩ := perform_trace it s
  have h := actionKeeps_perform it s
  refine ⟨⟨es, hes⟩, fun he => ?_, h.cfg⟩
  rcases h.mark with ⟨herr, -⟩ | ⟨r, herr, -⟩
  · exact herr.trans he
  · exact herr

theorem keeps_settle (s : State) : Keeps s (settle s) := by
  rw [settle_eq]
  exact ⟨⟨[], (List.append_nil _).symm⟩, id, rfl⟩

theorem advance_of_nil {s : State} (h : s.seq = []) : advance s = settle s := by
  rw [advance, h]

theorem advance_of_cons {s : State} {it : Item} {rest : List Item} (h : s.seq = it :: rest) :
    advance s = settle (perform it { s with seq := rest }) := by
  rw [advance, h]

theorem keeps_advance (s : State) : Keeps s (advance s) := by
  cases hs : s.seq with
  | nil => exact advance_of_nil hs ▸ keeps_settle s
  | cons it rest =>
    rw [advance_of_cons hs]
    obtain ⟨htrace, herr, hcfg⟩ := keeps_perform it { s with seq := rest }
    exact Keeps.trans ⟨htrace, herr, hcfg⟩ (keeps_settle _)

theorem keeps_advanceN (n : Nat) (s : State) : Keeps s (advanceN n s) := by
  induction n generalizing s with
  | zero => exact .refl s
  | succ n ih => exact (keeps_advance s).trans (ih (advance s))

/-- Settles O12: an action emits at most one event, and `settle` none. -/
theorem sequencerEmitsAtMostOneEventPerAction : Obligations.SequencerEmitsAtMostOneEventPerAction := by
  intro s
  cases hs : s.seq with
  | nil => exact ⟨[], by rw [advance_of_nil hs, settle_trace, List.append_nil], Nat.zero_le 1⟩
  | cons it rest =>
    rw [advance_of_cons hs, settle_trace]
    exact perform_trace it { s with seq := rest }

/-! ### Every step but hardware reset -/

theorem keeps_exec {i : Instr} {s t : State} (h : exec i s = .next t) : Keeps s t :=
  ⟨exec_trace_grows h, exec_err_sticky h, by rw [exec_frame h]⟩

theorem keeps_refuse (r : RefuseReason) (s : State) : Keeps s (refuse r s) :=
  ⟨⟨[], (List.append_nil _).symm⟩, fun _ => rfl, rfl⟩

theorem keeps_acceptOperands (i : Instr) (w : Word) (s : State) : Keeps s (acceptOperands i w s) := by
  rw [acceptOperands_eq]
  exact ⟨⟨[], (List.append_nil _).symm⟩, id, rfl⟩

theorem keeps_callCommand {w : Word} {s t : State} (h : callCommand w s = .next t) : Keeps s t := by
  cases hd : decode (.command w) with
  | ok i =>
    rw [callCommand_of_ok hd] at h
    exact (keeps_acceptOperands i w s).trans (keeps_exec h)
  | error e =>
    rw [callCommand_of_error hd] at h
    exact Host.Outcome.next.inj h ▸ keeps_refuse _ s

theorem keeps_acceptCommand (w : Word) (s : State) : Keeps s (acceptCommand w s) := by
  cases hd : decode (.command w) with
  | ok i =>
    rw [acceptCommand_of_ok hd]
    obtain ⟨htrace, herr, hcfg⟩ := keeps_acceptOperands i w s
    exact ⟨htrace, herr, hcfg⟩
  | error e =>
    rw [acceptCommand_of_error hd]
    exact keeps_refuse _ s

/-- A step keeps the trace, `ERR` and the configuration, or it is a hardware reset. -/
theorem keeps_or_reset {s t : State} (h : step s = .next t) :
    Keeps s t ∨ s.inputs.head? = some .hardReset ∧ t.cfg = s.cfg := by
  cases stepEffect_of_step h with
  | actions n l ht =>
    obtain ⟨htrace, herr, hcfg⟩ := keeps_advanceN n s
    exact .inl (ht ▸ ⟨htrace, herr, hcfg⟩)
  | port l d f ht => exact .inl (ht ▸ ⟨⟨[], (List.append_nil _).symm⟩, id, rfl⟩)
  | call w l hb hcall =>
    obtain ⟨htrace, herr, hcfg⟩ := keeps_callCommand hcall
    exact .inl ⟨htrace, herr, hcfg⟩
  | accept w l hb ht =>
    obtain ⟨htrace, herr, hcfg⟩ := keeps_acceptCommand w { s with inputs := l }
    exact .inl (ht ▸ ⟨htrace, herr, hcfg⟩)
  | reset l hin ht => exact .inr ⟨hin, by rw [ht]; rfl⟩

theorem keeps_of_step {s t : State} (h : step s = .next t) (hin : s.inputs.head? ≠ some .hardReset) : Keeps s t :=
  (keeps_or_reset h).resolve_right fun hr => hin hr.1

/-- Settles O13. -/
theorem traceOnlyGrowsWithoutHardwareReset : Obligations.TraceOnlyGrowsWithoutHardwareReset := fun _ _ h hin =>
  (keeps_of_step h hin).trace

/-- Settles O14. -/
theorem errIsClearedByHardwareResetOnly : Obligations.ErrIsClearedByHardwareResetOnly := fun _ _ h hin =>
  (keeps_of_step h hin).err

/-- Settles O15: hardware reset keeps the configuration too. -/
theorem configurationNeverChanges : Obligations.ConfigurationNeverChanges := fun _ _ h =>
  (keeps_or_reset h).elim Keeps.cfg And.right

end Sys2Proof.Machine
end

section
/-! The invariant of the machine: every action of the sequencer keeps it, and with them every step. -/

namespace Sys2Proof.Machine

/-! ### The order of the actions -/

/-- Once the outputs are configured every action may come. -/
theorem linesReady_true (l : List Item) : linesReady true l = true := by
  induction l with
  | nil => rfl
  | cons it l ih => cases it <;> simp [linesReady, ih]

/-- Before that the first action configures the lines, or it drives none. -/
theorem linesReady_false_cons {it : Item} {l : List Item} (h : linesReady false (it :: l) = true) :
    it.needsLines = false ∧ (it = .cfg ∨ linesReady false l = true) := by
  cases it <;> simp_all [linesReady, Item.needsLines]

/-! ### What an action leaves to do -/

theorem sanctioned_pushItems {body : List Item} {s : State} (hb : body.all Item.sanctioned = true)
    (hs : s.seq.all Item.sanctioned = true) : (pushItems body s).seq.all Item.sanctioned = true := by
  rw [pushItems_seq, List.all_append, hb, hs]
  rfl

theorem sanctioned_ite {c : Prop} [Decidable c] {s t : State} (hs : s.seq.all Item.sanctioned = true)
    (ht : t.seq.all Item.sanctioned = true) : (if c then s else t).seq.all Item.sanctioned = true := by
  split
  · exact hs
  · exact ht

theorem sanctioned_guarded {body : List Item} {s : State} (hb : body.all Item.sanctioned = true)
    (hs : s.seq.all Item.sanctioned = true) : (guarded body s).seq.all Item.sanctioned = true :=
  sanctioned_ite rfl (sanctioned_pushItems hb hs)

theorem sanctioned_driveItem (l : Line) (b : Bool) : (driveItem l b).sanctioned = true := by cases b <;> rfl

theorem sanctioned_wireFrameItems (b : Byte) : (wireFrameItems b).all Item.sanctioned = true := by
  unfold wireFrameItems
  split <;> rfl

theorem sanctioned_readOpcode (cb : Bool) : (Item.wire (readOpcodeOf cb)).sanctioned = true := by cases cb <;> decide

theorem sanctioned_resetItems (m : Mode) : (resetItems m).all Item.sanctioned = true := by cases m <;> rfl

/-- A legal target is sent as a mode byte. -/
theorem sanctioned_switchItems (m : Mode) {tgt : Byte} (ht : legalTarget tgt = true) :
    (switchItems m tgt).all Item.sanctioned = true := by
  rcases legalTarget_iff.mp ht with rfl | rfl <;> cases m <;> decide

theorem seq_cfgLines (s : State) : (cfgLines s).seq = s.seq := by
  unfold cfgLines
  split <;> rfl

theorem seq_drive (e : Event) (l : Line) (b : Bool) (s : State) : (emit e (setLatch l b s)).seq = s.seq := by simp

/-- A sanctioned action leaves sanctioned actions to do. -/
theorem sanctioned_perform {it : Item} {s : State} (hit : it.sanctioned = true)
    (hs : s.seq.all Item.sanctioned = true) : (perform it s).seq.all Item.sanctioned = true := by
  cases it with
  | cfg => exact (congrArg (List.all · Item.sanctioned) (seq_cfgLines s)).trans hs
  | set l => exact (congrArg (List.all · Item.sanctioned) (seq_drive (.set l) l true s)).trans hs
  | clr l => exact (congrArg (List.all · Item.sanctioned) (seq_drive (.clr l) l false s)).trans hs
  | pulse => exact sanctioned_pushItems rfl hs
  | wire b => exact sanctioned_pushItems (sanctioned_wireFrameItems b) hs
  | data v => exact sanctioned_pushItems rfl hs
  | addrField k => exact sanctioned_pushItems rfl hs
  | readOpcode => exact sanctioned_pushItems (by rw [List.all_cons, sanctioned_readOpcode]; rfl) hs
  | preamble => exact sanctioned_pushItems (by split <;> decide) hs
  | highField => exact sanctioned_pushItems (by split <;> decide) hs
  | txBit v => exact sanctioned_pushItems (by rw [List.all_cons, sanctioned_driveItem]; rfl) hs
  | txNext v => exact sanctioned_ite hs (sanctioned_pushItems rfl hs)
  | receive => exact sanctioned_pushItems rfl hs
  | rxBit => exact sanctioned_pushItems rfl hs
  | rxNext => exact sanctioned_ite hs (sanctioned_pushItems rfl hs)
  | lowTrain l a b => exact sanctioned_ite hs (sanctioned_pushItems rfl hs)
  | pulseTrain => exact sanctioned_ite hs (sanctioned_pushItems rfl hs)
  | recvBlock => exact sanctioned_pushItems rfl hs
  | recvNext => exact sanctioned_pushItems rfl hs
  | storeByte => exact sanctioned_ite hs (sanctioned_pushItems rfl hs)
  | holdFirst => exact sanctioned_pushItems rfl hs
  | opHandshake => exact sanctioned_pushItems (by decide) hs
  | opReset => exact sanctioned_guarded rfl hs
  | opSwitch =>
    by_cases ht : legalTarget s.tgt = true
    · have hbody : [Item.callSwitch s.tgt].all Item.sanctioned = true := by rw [List.all_cons, Item.sanctioned, ht]; rfl
      simp only [perform, if_pos ht]
      exact sanctioned_guarded hbody hs
    · simp only [perform, if_neg ht]
      rfl
  | opCheck => exact sanctioned_guarded (by decide) hs
  | opPing => exact sanctioned_guarded rfl hs
  | opReadflash => exact sanctioned_guarded (by decide) hs
  | callReset => exact sanctioned_pushItems (sanctioned_resetItems s.mode) hs
  | callSwitch t => exact sanctioned_pushItems (sanctioned_switchItems s.mode hit) hs
  | callPing => exact sanctioned_pushItems (by decide) hs
  | refuse r => rfl
  | _ => exact hs

/-! ### Actions before the outputs are configured -/

theorem guarded_of_uninitialized {s : State} (h : s.mode = .uninitialized) (body : List Item) :
    guarded body s = abandon .notInitialized s := if_pos h

/-- While Uninitialized with the outputs not configured, an action that drives no line leaves the mode, and what it
leaves to do may come. -/
theorem linesReady_perform_undriven {it : Item} {s : State} (hm : s.mode = .uninitialized) (hoe : s.oe = false)
    (hit : it.needsLines = false) (hs : it = .cfg ∨ linesReady false s.seq = true) :
    (perform it s).mode = .uninitialized ∧ linesReady (perform it s).oe (perform it s).seq = true := by
  have hrefused : ∀ r, (abandon r s).mode = .uninitialized ∧ linesReady (abandon r s).oe (abandon r s).seq = true :=
    fun _ => ⟨hm, rfl⟩
  have hguarded : ∀ body,
      (guarded body s).mode = .uninitialized ∧ linesReady (guarded body s).oe (guarded body s).seq = true := by
    intro body
    rw [guarded_of_uninitialized hm]
    exact hrefused _
  cases it with
  | cfg =>
    have hcfg : (perform .cfg s).oe = true := by simp [perform, cfgLines, hoe]
    rw [hcfg]
    exact ⟨by simp [perform, cfgLines, hoe, hm], linesReady_true _⟩
  | wait n => exact ⟨hm, (congrArg (linesReady · s.seq) hoe).trans (hs.resolve_left nofun)⟩
  | setBitn n => exact ⟨hm, (congrArg (linesReady · s.seq) hoe).trans (hs.resolve_left nofun)⟩
  | clearAcc => exact ⟨hm, (congrArg (linesReady · s.seq) hoe).trans (hs.resolve_left nofun)⟩
  | loadLoop n => exact ⟨hm, (congrArg (linesReady · s.seq) hoe).trans (hs.resolve_left nofun)⟩
  | opHandshake => exact ⟨hm, linesReady_true _⟩
  | opReset => exact hguarded _
  | opSwitch =>
    simp only [perform]
    split
    · exact hguarded _
    · exact hrefused _
  | opCheck => exact hguarded _
  | opPing => exact hguarded _
  | opReadflash => exact hguarded _
  | refuse r => exact hrefused r
  | _ => cases hit

/-! ### The invariant -/

/-- The invariant but for `BUSY`, of a state whose sequencer is at any list of actions. -/
structure Sound (s : State) : Prop where
  mark : s.err = s.refusal.isSome
  rbuf : s.rbuf.wf = true
  sanctioned : s.seq.all Item.sanctioned = true
  driven : s.mode ≠ .uninitialized → s.oe = true
  ready : linesReady s.oe s.seq = true

theorem inv_iff (s : State) : Inv s ↔ s.busy = !s.seq.isEmpty ∧ Sound s :=
  ⟨fun ⟨hb, hmark, hrbuf, hall, hdriven, hready⟩ => ⟨hb, hmark, hrbuf, hall, hdriven, hready⟩,
    fun ⟨hb, hmark, hrbuf, hall, hdriven, hready⟩ => ⟨hb, hmark, hrbuf, hall, hdriven, hready⟩⟩

/-- One action keeps the invariant but for `BUSY`. -/
theorem sound_perform {it : Item} {rest : List Item} {s : State} (h : Sound s) (hs : s.seq = it :: rest) :
    Sound (perform it { s with seq := rest }) := by
  have hk := actionKeeps_perform it { s with seq := rest }
  have hall := h.sanctioned
  have hready := h.ready
  rw [hs, List.all_cons, Bool.and_eq_true] at hall
  rw [hs] at hready
  have hmark : (perform it { s with seq := rest }).err = (perform it { s with seq := rest }).refusal.isSome := by
    rcases hk.mark with ⟨herr, hrefusal⟩ | ⟨r, herr, hrefusal⟩
    · rw [herr, hrefusal]
      exact h.mark
    · rw [herr, hrefusal]
      rfl
  by_cases hoe : s.oe = true
  · have hoe' := hk.oe hoe
    refine ⟨hmark, hk.rbuf h.rbuf, sanctioned_perform hall.1 hall.2, fun _ => hoe', ?_⟩
    rw [hoe']
    exact linesReady_true _
  · rw [Bool.not_eq_true] at hoe
    have hm : s.mode = .uninitialized := by
      by_contra hm
      cases hoe.symm.trans (h.driven hm)
    rw [hoe] at hready
    obtain ⟨hneeds, hrest⟩ := linesReady_false_cons hready
    obtain ⟨hmode, hlines⟩ := linesReady_perform_undriven (s := { s with seq := rest }) hm hoe hneeds hrest
    exact ⟨hmark, hk.rbuf h.rbuf, sanctioned_perform hall.1 hall.2, fun hne => absurd hmode hne, hlines⟩

/-- `settle` brings `BUSY` in step with the sequencer. -/
theorem inv_settle {s : State} (hb : s.busy = true ∨ s.seq = []) (h : Sound s) : Inv (settle s) := by
  obtain ⟨hmark, hrbuf, hall, hdriven, hready⟩ := h
  rw [settle_eq]
  refine (inv_iff _).mpr ⟨?_, hmark, hrbuf, hall, hdriven, hready⟩
  rcases hb with hb | hs
  · simp [hb]
  · simp [hs]

theorem inv_advance {s : State} (h : Inv s) : Inv (advance s) := by
  obtain ⟨hb, hsound⟩ := (inv_iff s).mp h
  cases hs : s.seq with
  | nil =>
    rw [advance_of_nil hs]
    exact inv_settle (.inr hs) hsound
  | cons it rest =>
    rw [advance_of_cons hs]
    refine inv_settle (.inl ?_) (sound_perform hsound hs)
    rw [perform_busy, hb, hs]
    rfl

theorem inv_advanceN {s : State} (h : Inv s) (n : Nat) : Inv (advanceN n s) := by
  induction n generalizing s with
  | zero => exact h
  | succ n ih => exact ih (inv_advance h)

/-- The port and the outside are no part of the invariant. -/
theorem inv_port {s : State} (h : Inv s) (l : List Input) (d : Word) (f : Nat) :
    Inv { s with inputs := l, readData := d, freeReads := f } := by
  obtain ⟨hbusy, hmark, hrbuf, hall, hdriven, hready⟩ := h
  exact ⟨hbusy, hmark, hrbuf, hall, hdriven, hready⟩

theorem inv_hardReset (s : State) : Inv (hardReset s) := ⟨rfl, rfl, rfl, rfl, fun h => absurd rfl h, rfl⟩

/-- A command starts with an action that is sanctioned and drives no line. -/
theorem start_of_command {i : Instr} (hc : i.isCommand = true) :
    (Item.start i).sanctioned = true ∧ ∀ oe, linesReady oe [Item.start i] = true := by
  cases i with
  | handshake => exact ⟨rfl, fun oe => by cases oe <;> rfl⟩
  | reset => exact ⟨rfl, fun oe => by cases oe <;> rfl⟩
  | switchmode t => exact ⟨rfl, fun oe => by cases oe <;> rfl⟩
  | check => exact ⟨rfl, fun oe => by cases oe <;> rfl⟩
  | ping => exact ⟨rfl, fun oe => by cases oe <;> rfl⟩
  | readflash a c => exact ⟨rfl, fun oe => by cases oe <;> rfl⟩
  | _ => cases hc

theorem inv_acceptCommand {s : State} (h : Inv s) (w : Word) : Inv (acceptCommand w s) := by
  obtain ⟨hbusy, hmark, hrbuf, hall, hdriven, hready⟩ := h
  cases hd : decode (.command w) with
  | error e =>
    rw [acceptCommand_of_error hd]
    exact ⟨hbusy, rfl, hrbuf, hall, hdriven, hready⟩
  | ok i =>
    cases hr : refusalReason i s.mode with
    | some r =>
      rw [acceptCommand_of_some hd hr]
      exact ⟨rfl, hmark, hrbuf, rfl, hdriven, by cases s.oe <;> rfl⟩
    | none =>
      obtain ⟨hsanctioned, hstart⟩ := start_of_command (isCommand_of_decode_command hd)
      rw [acceptCommand_of_none hd hr]
      exact ⟨rfl, hmark, hrbuf, by rw [List.all_cons, hsanctioned]; rfl, hdriven, hstart s.oe⟩

/-- Settles O21. -/
theorem invariantHoldsAtReset : Obligations.InvariantHoldsAtReset := inv_hardReset State.reset

/-- Settles O22: a step is a run of actions, an answer of the port, or a hardware reset; a call is the run of actions
that its acceptance starts. -/
theorem invariantIsKeptByEveryStep : Obligations.InvariantIsKeptByEveryStep := by
  intro s t hs h
  have hport : ∀ l, Inv { s with inputs := l } := fun l => inv_port hs l s.readData s.freeReads
  cases stepEffect_of_step h with
  | actions n l ht =>
    rw [ht]
    exact inv_port (inv_advanceN hs n) l _ _
  | port l d f ht =>
    rw [ht]
    exact inv_port hs l d f
  | call w l hb hcall =>
    have hidle : State.Idle { s with inputs := l } := by
      have hseq := hs.busy_seq
      rw [hb] at hseq
      exact ⟨hb, by simpa using hseq⟩
    obtain ⟨n, hn, -⟩ := reaches_callCommand hidle hcall
    rw [← hn]
    exact inv_advanceN (inv_acceptCommand (hport l) w) n
  | accept w l hb ht =>
    rw [ht]
    exact inv_acceptCommand (hport l) w
  | reset l hin ht =>
    rw [ht]
    exact inv_hardReset _

end Sys2Proof.Machine
end
